-- ==== Sys2Proof/Word.lean ====
section
/-! DEFINITION. The bit-vector types of the formats the spec names (30_encoding R44). -/

namespace Sys2Proof

/-- An 8-bit value: a phase (PHASE8, R45), a table magnitude (R24), a displacement (R19), a request byte (R51). -/
abbrev Byte := BitVec 8

/-- A table index: bits 5:0 of a phase (R45), 0 to 63. -/
abbrev Idx := BitVec 6

/-- REPORT24 (R49): the report buffer as a 24-bit port carries it. -/
abbrev Report := BitVec 24

/-- DW (R52): the decode word of a cycle. -/
abbrev DecodeWord := BitVec 21

/-- CIW (R58): one cycle of stimulus on the input ports. -/
abbrev InputWord := BitVec 20

/-- A length code (R50). -/
abbrev Len := BitVec 2

end Sys2Proof
end

