-- ==== Sys2Proof/Config.lean ====
section
/-! DEFINITION. The ports (10_state R25), the open parameters (00_scope R8) and the free values.
The parameters are a record that State carries (log entry 1): each statement about every state is a
statement for every choice of them, as R8 asks ("a model takes each as an argument"). -/

namespace Sys2Proof

/-- The input ports of one cycle (10_state R25). `tick` is the value of `tick_i` that the cycle samples
(41_generator R75: a free input, so every metastable outcome is one of the sequences). -/
@[ext]
structure Inputs where
  /-- `rst_i` -/
  rst : Bool
  /-- `tick_i` -/
  tick : Bool
  /-- `int_ready_i` -/
  intReady : Bool
  /-- `ctl_valid_i` -/
  ctlValid : Bool
  /-- `ctl_bmrt_i` -/
  ctlBmrt : Byte
  /-- `ctl_breq_i` -/
  ctlBreq : Byte
deriving DecidableEq, Repr, Inhabited

/-- The `IDLE` line of R59: every input 0. -/
def Inputs.idle : Inputs :=
  { rst := false, tick := false, intReady := false, ctlValid := false, ctlBmrt := 0, ctlBreq := 0 }

/-- A trigger and nothing else: the `TK` line of R59 in pulse mode. -/
def Inputs.trigger : Inputs :=
  { rst := false, tick := true, intReady := false, ctlValid := false, ctlBmrt := 0, ctlBreq := 0 }

/-- The output ports of one cycle (10_state R25). -/
@[ext]
structure Outputs where
  /-- `int_valid_o` -/
  intValid : Bool
  /-- `int_data_o` -/
  intData : Report
  /-- `int_len_o` -/
  intLen : Len
  /-- `ctl_resp_len_o` -/
  ctlRespLen : Len
  /-- `ctl_resp_data_o` -/
  ctlRespData : Report
deriving DecidableEq, Repr

/-- P_TICK_SYNC (R8, D4): 0, or N >= 2. `toggle extra` is N = extra + 2, so that the inadmissible
value 1 cannot be written. -/
inductive TickSync where
  /-- P_TICK_SYNC = 0: `tick_i` is a pulse of the `clk` domain (R72). -/
  | pulse
  /-- P_TICK_SYNC = extra + 2: `tick_i` is a level that toggles once per trigger (R73). -/
  | toggle (extra : Nat)
deriving DecidableEq, Repr

/-- P_TICK_SYNC as the number R8 gives: how many synchroniser stages there are. -/
def TickSync.stages : TickSync → Nat
  | .pulse => 0
  | .toggle extra => extra + 2

/-- P_INIT_X and P_INIT_Y (R8, D5): each 0x01 (+1) or 0xFF (−1). -/
inductive InitSign where
  | plus
  | minus
deriving DecidableEq, Repr

/-- The byte an InitSign stands for (R19). -/
def InitSign.toByte : InitSign → Byte
  | .plus => 0x01
  | .minus => 0xFF

/-- The open parameters of 00_scope R8. P_TICK_HZ is not here: no rule uses it (R8, R122). -/
structure Params where
  /-- P_QWT, the quarter-wave table (10_state R24). -/
  qwt : Vector Byte 64
  /-- P_INIT_X -/
  initX : InitSign
  /-- P_INIT_Y -/
  initY : InitSign
  /-- P_TICK_SYNC -/
  tickSync : TickSync
  /-- P_REQ_GET_REPORT -/
  reqGetReport : Byte
deriving DecidableEq, Repr

/-- The constraints of R24 on P_QWT: (a) entry 0 is 0x00, (b) entry 63 is 0x7F, (c) the table never
falls from one entry to the next. -/
abbrev Params.wf (p : Params) : Prop :=
  p.qwt[0] = 0x00 ∧ p.qwt[63] = 0x7F ∧
    ∀ j : Fin 63, p.qwt[j.val] ≤ p.qwt[j.val + 1]

/-- FREE VALUE (log entry 2): what entries 1 to 62 of P_QWT at reset are made from. It has no body, so
no proof can use a value of it (10_state R24, 91_not_in_source N3). -/
opaque Config.freeTableByte : Nat → Byte

/-- FREE VALUE (log entry 6): the inputs of cycle n where the stimulus list does not give them
(44_cycle R97: the input sequence is a free argument). -/
opaque Config.freeInputs : Nat → Inputs

/-- The running maximum of the free table bytes: it makes the free table rise, as R24 (c) asks. -/
def Config.freePeak : Nat → Nat
  | 0 => 0
  | j + 1 => max (Config.freePeak j) (Config.freeTableByte (j + 1)).toNat

/-- Entry j of the table at reset: the ends as R24 (a) and (b) fix them, every entry between them free
under R24 (c). Any table of R24 is this one for some free bytes (log entry 2). -/
def Config.tableEntry (j : Nat) : Byte :=
  if j = 0 then 0x00 else if 63 ≤ j then 0x7F else BitVec.ofNat 8 (min 127 (Config.freePeak j))

/-- P_QWT at reset (log entry 2). -/
def Config.table : Vector Byte 64 :=
  Vector.ofFn fun j => Config.tableEntry j.val

/-- The parameters `State.reset` carries (log entries 1, 2, 3): the spec's defaults of R8 for
P_TICK_SYNC and P_REQ_GET_REPORT; DESIGN CHOICE +1 for P_INIT_X and P_INIT_Y, which the spec leaves
open; a free table. -/
def Config.params : Params :=
  { qwt := Config.table, initX := .plus, initY := .plus, tickSync := .pulse, reqGetReport := 0x01 }

end Sys2Proof
end

