-- ==== Sys2Proof/Syntax.lean ====
section
/-! DEFINITION. The operations of JMRA, one constructor per row of spec/opcode_table.json, and the two
word formats that carry them (30_encoding R52, R45). -/

namespace Sys2Proof

/-- The two lanes of the mapper (40_mapper R64): X maps the sampled phase, Y the phase 64 ahead. -/
inductive Lane where
  | x
  | y
deriving DecidableEq, Repr

/-- The operations of JMRA (00_scope R3). -/
inductive Instr where
  /-- RESET (70_reset_and_hazards R109). No operands. -/
  | reset
  /-- TICK (41_generator R76). Its operand is `phase_q`. -/
  | tick
  /-- TRY_SEND (42_dispatcher R84). Its operands are `flag_q`, `int_ready_i` and RB. -/
  | trySend
  /-- GET_REPORT (43_control_query R90): the request's type byte and code byte (R51). -/
  | getReport (bmrt breq : Byte)
  /-- CTL_UNHANDLED (43_control_query R91): the request's type byte and code byte (R51). -/
  | ctlUnhandled (bmrt breq : Byte)
  /-- MAP_Q0 (40_mapper R65): the lane whose phase net carries the word, and IDX (R45). -/
  | mapQ0 (lane : Lane) (idx : Idx)
  /-- MAP_Q1 (40_mapper R66). -/
  | mapQ1 (lane : Lane) (idx : Idx)
  /-- MAP_Q2 (40_mapper R67). -/
  | mapQ2 (lane : Lane) (idx : Idx)
  /-- MAP_Q3 (40_mapper R68). -/
  | mapQ3 (lane : Lane) (idx : Idx)
deriving DecidableEq, Repr

/-- An encoded operation: the decode word of a cycle (R52), or a phase value on the phase net of one
lane (R45, R55). The lane is no bit of the word: it is the place the word stands. -/
inductive CodeWord where
  | dw (w : DecodeWord)
  | phase (lane : Lane) (p : Byte)
deriving DecidableEq, Repr

end Sys2Proof
end

