-- ==== Sys2Proof/WellFormed.lean ====
section
/-! DEFINITION. When an operation is one the decoder can produce. Only the two control operations have
operands that the encoding restricts (43_control_query R89): the request bytes must be those of a class
request with the get-report code for GET_REPORT, and any others for CTL_UNHANDLED. `req` is
P_REQ_GET_REPORT. -/

namespace Sys2Proof

/-- Bits 6:5 of the type byte are 0b01 and the code byte is P_REQ_GET_REPORT (R51, R89, without
`ctl_valid_i`). -/
def requestIsGetReport (req bmrt breq : Byte) : Bool :=
  bmrt.extractLsb' 5 2 == 0b01#2 && breq == req

/-- The operand checks of each row (R53, R55). -/
def Instr.wf (req : Byte) : Instr → Bool
  | .reset => true
  | .tick => true
  | .trySend => true
  | .getReport bmrt breq => requestIsGetReport req bmrt breq
  | .ctlUnhandled bmrt breq => !requestIsGetReport req bmrt breq
  | .mapQ0 _ _ => true
  | .mapQ1 _ _ => true
  | .mapQ2 _ _ => true
  | .mapQ3 _ _ => true

end Sys2Proof
end

