-- ==== Sys2Proof/Decode.lean ====
section
/-! DEFINITION. The decoders (30_encoding R45, R51 to R55, R58) and, after them, the encoders, all
written from the spec's bit tables. Decoding is total. A word that selects no operation is an idle cycle
(R54), which the one-instruction reading `decodeOne` rejects by name. -/

namespace Sys2Proof

/-- A row of spec/opcode_table.json: the bits it fixes and their values. -/
structure Row (w : Nat) where
  mask : BitVec w
  pattern : BitVec w
deriving DecidableEq, Repr

/-- A word matches a row when the row's fixed bits have the row's values. -/
def Row.hits {w : Nat} (r : Row w) (x : BitVec w) : Bool := x &&& r.mask == r.pattern

/-! ### The rows of the opcode table (R53, R55) -/

def rowReset : Row 21 := ⟨0x000001#21, 0x000001#21⟩
def rowTick : Row 21 := ⟨0x000003#21, 0x000002#21⟩
def rowTrySend : Row 21 := ⟨0x00000D#21, 0x00000C#21⟩
/-- Match bits 20:13 are P_REQ_GET_REPORT (R53); the row is 0x002410 for 0x01. -/
def rowGetReport (req : Byte) : Row 21 := ⟨0x1FEC11#21, req ++ 0x0410#13⟩
/-- Applies only where the GET_REPORT row does not match (R53). -/
def rowCtl : Row 21 := ⟨0x000011#21, 0x000010#21⟩
def rowMapQ0 : Row 8 := ⟨0xC0#8, 0x00#8⟩
def rowMapQ1 : Row 8 := ⟨0xC0#8, 0x40#8⟩
def rowMapQ2 : Row 8 := ⟨0xC0#8, 0x80#8⟩

/-! ### Fields of the decode word (R52) -/

def dwRst (w : DecodeWord) : Bool := w.getLsbD 0
def dwTickEff (w : DecodeWord) : Bool := w.getLsbD 1
def dwFlag (w : DecodeWord) : Bool := w.getLsbD 2
def dwIntReady (w : DecodeWord) : Bool := w.getLsbD 3
def dwCtlValid (w : DecodeWord) : Bool := w.getLsbD 4
def dwBmrt (w : DecodeWord) : Byte := w.extractLsb' 5 8
def dwBreq (w : DecodeWord) : Byte := w.extractLsb' 13 8

/-- The decode word of a cycle: its inputs, the ready flag and the synchronised trigger (R52). -/
def assembleDw (i : Inputs) (flag tickEff : Bool) : DecodeWord :=
  i.ctlBreq ++ i.ctlBmrt ++ BitVec.ofBool i.ctlValid ++ BitVec.ofBool i.intReady
    ++ BitVec.ofBool flag ++ BitVec.ofBool tickEff ++ BitVec.ofBool i.rst

/-! ### Decoding -/

/-- The operation of the control responder that a decode word selects (R53, R54): GET_REPORT before
CTL_UNHANDLED, none without a request. -/
def decodeCtl (req : Byte) (w : DecodeWord) : List Instr :=
  if (rowGetReport req).hits w then [.getReport (dwBmrt w) (dwBreq w)]
  else if rowCtl.hits w then [.ctlUnhandled (dwBmrt w) (dwBreq w)]
  else []

/-- Every operation a decode word selects, in the table's order (R53, R54); none in an idle cycle. -/
def decodeDw (req : Byte) (w : DecodeWord) : List Instr :=
  (if rowReset.hits w then [.reset] else [])
    ++ (if rowTick.hits w then [.tick] else [])
    ++ (if rowTrySend.hits w then [.trySend] else [])
    ++ decodeCtl req w

/-- The arm a phase value selects in a lane (R55): every phase value selects exactly one (R56). -/
def decodePhase (lane : Lane) (p : Byte) : Instr :=
  if rowMapQ0.hits p then .mapQ0 lane (p.extractLsb' 0 6)
  else if rowMapQ1.hits p then .mapQ1 lane (p.extractLsb' 0 6)
  else if rowMapQ2.hits p then .mapQ2 lane (p.extractLsb' 0 6)
  else .mapQ3 lane (p.extractLsb' 0 6)

/-- Every operation a code word selects. `req` is P_REQ_GET_REPORT. -/
def decode (req : Byte) : CodeWord → List Instr
  | .dw w => decodeDw req w
  | .phase lane p => [decodePhase lane p]

/-- Why a word gives no instruction. -/
inductive Reject where
  /-- A decode word that matches no row: an idle cycle (R54), which is no error of the machine. -/
  | idle
  /-- The host's word is wider than the 21 bits of the decode word. -/
  | width
deriving DecidableEq, Repr

/-- The first operation a code word selects, in the table's order. -/
def decodeOne (req : Byte) (c : CodeWord) : Except Reject Instr :=
  match decode req c with
  | i :: _ => .ok i
  | [] => .error .idle

/-- The code word that the host's bits stand for (log entry 8, DESIGN CHOICE). The table has two formats and a
row's bits carry no mark of its format. More than 8 bits: a decode word. At most 8 bits: a decode word
with its upper bits 0 where that selects an operation, and a phase value of the X lane where it does not. -/
def tableCode (nbits w : Nat) : Except Reject CodeWord :=
  if 2 ^ 21 ≤ w then .error .width
  else if nbits ≤ 8 then
    if decodeDw 0x01 (BitVec.ofNat 21 w) = [] then .ok (.phase .x (BitVec.ofNat 8 w))
    else .ok (.dw (BitVec.ofNat 21 w))
  else if nbits ≤ 24 then .ok (.dw (BitVec.ofNat 21 w))
  else .error .width

/-- What the decoder reads from a row's bits as spec/opcode_table.json numbers them, with the table's
P_REQ_GET_REPORT = 0x01 (R53). -/
def decodeTableWord (nbits w : Nat) : Option Instr :=
  match tableCode nbits w with
  | .ok c =>
    match decodeOne 0x01 c with
    | .ok i => some i
    | .error _ => none
  | .error _ => none

/-- The inputs a CIW word gives (R58). -/
def decodeCiw (w : InputWord) : Inputs :=
  { rst := w.getLsbD 0
    tick := w.getLsbD 1
    intReady := w.getLsbD 2
    ctlValid := w.getLsbD 3
    ctlBmrt := w.extractLsb' 4 8
    ctlBreq := w.extractLsb' 12 8 }

/-! ### Encoding -/

/-- The decode word of a control request and nothing else (R52, R53). -/
def encodeCtl (bmrt breq : Byte) : DecodeWord :=
  breq ++ bmrt ++ 0b10000#5

/-- A phase value from its quadrant (bits 7:6) and IDX (bits 5:0) (R45). -/
def encodePhase (quadrant : BitVec 2) (idx : Idx) : Byte := quadrant ++ idx

/-- The code word that selects exactly one operation: every bit outside the row's fixed bits and the
operation's operands is 0 (R53, R55). -/
def encode : Instr → CodeWord
  | .reset => .dw 0x000001#21
  | .tick => .dw 0x000002#21
  | .trySend => .dw 0x00000C#21
  | .getReport bmrt breq => .dw (encodeCtl bmrt breq)
  | .ctlUnhandled bmrt breq => .dw (encodeCtl bmrt breq)
  | .mapQ0 lane idx => .phase lane (encodePhase 0b00#2 idx)
  | .mapQ1 lane idx => .phase lane (encodePhase 0b01#2 idx)
  | .mapQ2 lane idx => .phase lane (encodePhase 0b10#2 idx)
  | .mapQ3 lane idx => .phase lane (encodePhase 0b11#2 idx)

/-- The CIW word of a cycle's inputs (R58). -/
def encodeCiw (i : Inputs) : InputWord :=
  i.ctlBreq ++ i.ctlBmrt ++ BitVec.ofBool i.ctlValid ++ BitVec.ofBool i.intReady
    ++ BitVec.ofBool i.tick ++ BitVec.ofBool i.rst

end Sys2Proof
end

