-- ==== Sys2Proof/Machine/State.lean ====
section
/-! DEFINITION. The machine's state as plain data. `Regs` is the register state of 10_state R16, exactly
its fields. `State` holds it together with what one closed step function needs beside it: the build
parameters (log entry 1), the values on the registers' D inputs, the ports of the cycle and the input
sequence still to come (log entry 4). -/

namespace Sys2Proof.Machine

/-- The register state of JMRA (10_state R16). Byte 0 of the report buffer is no register (R20). -/
@[ext]
structure Regs where
  /-- `phase_q` (R17) -/
  phaseQ : Byte
  /-- `flag_q`, the ready flag (R18) -/
  flagQ : Bool
  /-- `rb_x_q`, RB[1] (R19) -/
  rbXQ : Byte
  /-- `rb_y_q`, RB[2] (R19) -/
  rbYQ : Byte
  /-- `sync_q[0]`, `sync_q[1]`, … `sync_q[N-1]` in this order (R21); empty when P_TICK_SYNC = 0 -/
  syncQ : List Bool
  /-- `edge_q` (R21); false and unused when P_TICK_SYNC = 0 (log entry 5) -/
  edgeQ : Bool
deriving DecidableEq, Repr

/-- The state of a run. -/
@[ext]
structure State where
  /-- S_n, the registers at the start of the cycle (R12) -/
  regs : Regs
  /-- The values on the registers' D inputs, which the closing clock edge loads (R12, R38) -/
  nxt : Regs
  /-- The build-time parameters (R8); no step changes them (R23) -/
  params : Params
  /-- I_n, the input ports of the cycle (R25) -/
  inp : Inputs
  /-- O_n, the output ports of the cycle (R25, R26) -/
  out : Outputs
  /-- What the X lane of the mapper returned in this cycle, if MAP was evaluated (R55, R64) -/
  laneX : Option Byte
  /-- What the Y lane of the mapper returned in this cycle, if MAP was evaluated (R55, R64) -/
  laneY : Option Byte
  /-- The inputs of the coming cycles, the next cycle's first (R97) -/
  pending : List Inputs
  /-- How many cycles have been executed; the index of the free input past the end of `pending` -/
  cycle : Nat
deriving DecidableEq, Repr

/-- JMRA has no fault: 60_exceptions R99 ("JMRA raises no exception, records no fault, has no error
status and has no stuck state"). The type has no value, so no meaning can fault. -/
inductive Fault where
deriving DecidableEq, Repr

/-- JMRA refuses nothing: 44_cycle R97. -/
inductive Refusal where
  /-- The instruction has no meaning in this model yet. Raised by an arm of `exec` only; no arm raises it
  now. Safe: the run stops where the hardware goes on. -/
  | notModelled (mnemonic : String)
deriving DecidableEq, Repr

/-- The synchroniser's stages at reset: one 0 for each (R21, R109). -/
def resetSync (p : Params) : List Bool := List.replicate p.tickSync.stages false

/-- The registers at their reset values (10_state R16). -/
def Regs.atReset (p : Params) : Regs :=
  { phaseQ := 0x00
    flagQ := false
    rbXQ := p.initX.toByte
    rbYQ := p.initY.toByte
    syncQ := resetSync p
    edgeQ := false }

/-- The machine right after reset: the registers at their reset values (10_state R16, 70_reset R109) under the
parameters of `Config.params`, no stimulus placed. The model's own fields stand as log entry 4 says. -/
def State.reset : State :=
  { regs := Regs.atReset Config.params
    nxt := Regs.atReset Config.params
    params := Config.params
    inp := Inputs.idle
    out :=
      { intValid := false
        intData := Config.params.initY.toByte ++ Config.params.initX.toByte ++ 0x00#8
        intLen := 3
        ctlRespLen := 0
        ctlRespData := 0 }
    laneX := none
    laneY := none
    pending := []
    cycle := 0 }

end Sys2Proof.Machine
end

