-- ==== Sys2Proof/Machine/Operands.lean ====
section
/-! DEFINITION. The operand forms: the fields and assemblies of the phase word (30_encoding R45 to R48), the
signed byte (00_scope R10), the control request (R51) and the report (R49). -/

namespace Sys2Proof.Machine

/-! ### The phase word (R45) -/

/-- S, the sign selector: bit 7. -/
def phaseSign (p : Byte) : Bool := p.getLsbD 7

/-- M, the mirror selector: bit 6. -/
def phaseMirror (p : Byte) : Bool := p.getLsbD 6

/-- IDX, the table index: bits 5:0. -/
def phaseIdx (p : Byte) : Idx := p.extractLsb' 0 6

/-- The quadrant: bits 7:6. -/
def phaseQuadrant (p : Byte) : BitVec 2 := p.extractLsb' 6 2

/-- 63 − IDX, 6-bit unsigned (R46). -/
def mirrorIdx (idx : Idx) : Idx := 63#6 - idx

/-- The folded index (R46): mirrored when M is set. -/
def foldedIdx (p : Byte) : Idx :=
  if phaseMirror p then mirrorIdx (phaseIdx p) else phaseIdx p

/-- The Y phase of a TICK whose X phase is p: 64 ahead, modulo 256 (R47). -/
def yPhase (p : Byte) : Byte := p + 64

/-! ### Signed bytes (R10) and magnitudes (R48) -/

/-- `neg8(v) = (256 - v) mod 256` (R10). -/
def neg8 (v : Byte) : Byte := BitVec.ofNat 8 (256 - v.toNat)

/-- The integer a signed byte denotes: `v - 256` when bit 7 is set, `v` otherwise (R10). -/
def signedValue (v : Byte) : Int :=
  if v.getLsbD 7 then (v.toNat : Int) - 256 else (v.toNat : Int)

/-- The scaled magnitude: a logical right shift of the unsigned magnitude by 4 (R48, R62). -/
def scale (mag : Byte) : Byte := mag >>> 4

/-- The sign selector applied after the shift (R48, R62). -/
def applySign (s : Bool) (v : Byte) : Byte := if s then neg8 v else v

/-! ### The control request (R51) -/

/-- Bits 6:5 of the type byte. -/
inductive RequestType where
  | standard
  | cls
  | vendor
  | reserved
deriving DecidableEq, Repr

/-- The request's type, bits 6:5 of the type byte (R51). -/
def requestType (bmrt : Byte) : RequestType :=
  match bmrt.getLsbD 6, bmrt.getLsbD 5 with
  | false, false => .standard
  | false, true => .cls
  | true, false => .vendor
  | true, true => .reserved

/-- The request's direction, bit 7 of the type byte (R51); JMRA does not decode it. -/
def requestDirection (bmrt : Byte) : Bool := bmrt.getLsbD 7

/-- The request's recipient, bits 4:0 of the type byte (R51); JMRA does not decode it. -/
def requestRecipient (bmrt : Byte) : BitVec 5 := bmrt.extractLsb' 0 5

/-- A get-report request: class type and the code P_REQ_GET_REPORT (R51, R89). -/
def isGetReport (p : Params) (bmrt breq : Byte) : Bool :=
  requestType bmrt == .cls && breq == p.reqGetReport

/-! ### The report (R49) -/

/-- Button A: bit 0. -/
def reportButtonA (d : Report) : Bool := d.getLsbD 0

/-- Button B: bit 1. -/
def reportButtonB (d : Report) : Bool := d.getLsbD 1

/-- Button C: bit 2. -/
def reportButtonC (d : Report) : Bool := d.getLsbD 2

/-- The reserved bits 7:3. -/
def reportReserved (d : Report) : BitVec 5 := d.extractLsb' 3 5

/-- Report byte i, in bits 8i+7:8i of a data port (R31). -/
def reportByte (d : Report) (i : Fin 3) : Byte := d.extractLsb' (8 * i.val) 8

end Sys2Proof.Machine
end

