-- ==== Sys2Proof/Machine/Flags.lean ====
section
/-! DEFINITION. The one-bit conditions of a cycle: the synchronised trigger (41_generator R72, R73), the offer and
the transfer (42_dispatcher R81, R83), the query decode (43_control_query R89) and the ready flag's
arbitration (R85). All are functions of the registers at the start of the cycle and the cycle's inputs. -/

namespace Sys2Proof.Machine

/-- `sync_q[N-1]`, the last stage of the synchroniser (R73). -/
def lastStage (p : Params) (r : Regs) : Bool := r.syncQ.getD (p.tickSync.stages - 1) false

/-- `tick_eff` (R72 in pulse mode, R73 in toggle mode). -/
def tickEff (p : Params) (r : Regs) (i : Inputs) : Bool :=
  match p.tickSync with
  | .pulse => i.tick
  | .toggle _ => lastStage p r ^^ r.edgeQ

/-- The TICK condition `tick_op` (R85, R94). -/
def tickOp (p : Params) (r : Regs) (i : Inputs) : Bool := !i.rst && tickEff p r i

/-- `int_valid_o`, the offer (R81). -/
def offered (r : Regs) (i : Inputs) : Bool := r.flagQ && !i.rst

/-- `xfer`: the cycle is a transfer (R83). -/
def xfer (r : Regs) (i : Inputs) : Bool := offered r i && i.intReady

/-- `get` (R89). -/
def isGet (p : Params) (i : Inputs) : Bool := i.ctlValid && isGetReport p i.ctlBmrt i.ctlBreq

/-- `handled` (R89). -/
def handled (p : Params) (i : Inputs) : Bool := isGet p i && !i.rst

/-- `unhandled` (R89). -/
def unhandled (p : Params) (i : Inputs) : Bool := i.ctlValid && !isGet p i && !i.rst

/-- What a claim leaves on the ready flag's D input: cleared, unless a TICK of the same cycle sets the flag, which it then
leaves to the TICK (R84, R85: the set wins). -/
def claimFlag (tick d : Bool) : Bool := if tick then d else false

end Sys2Proof.Machine
end

