-- ==== Sys2Proof/Machine/Ops.lean ====
section
/-! DEFINITION. The named operations over the report buffer, the table, the mapper, the ports and the clock. An
operation of a cycle reads the registers `regs` (S_n) and the inputs `inp` (I_n), writes the D inputs
`nxt` and the ports `out`, and the closing edge loads `nxt` (00_scope R12, 20_memory R38). JMRA takes no
exception (60_exceptions R99, R102), so there is no exception entry and no return from one. -/

namespace Sys2Proof.Machine

/-! ### The report buffer and the table (20_memory R27 to R31) -/

/-- One byte of the report buffer (R27): byte 0 is hardwired 0x00 (R20). No other address exists, and none
can be formed (R28, R33). -/
def rbByte (r : Regs) : Fin 3 → Byte
  | 0 => 0x00
  | 1 => r.rbXQ
  | 2 => r.rbYQ

/-- `MemRead(0, 3)`: the whole buffer, byte i in bits 8i+7:8i (R28, R31). -/
def memRead (r : Regs) : Report := rbByte r 2 ++ rbByte r 1 ++ rbByte r 0

/-- `MemWrite(1, 2, v)`: RB[1] and RB[2] together (R28); RB[0] is not written. -/
def memWrite (r : Regs) (v : BitVec 16) : Regs :=
  { r with rbXQ := v.extractLsb' 0 8, rbYQ := v.extractLsb' 8 8 }

/-- `QWT[j]` (R24, R29). -/
def qwtRead (p : Params) (j : Idx) : Byte := p.qwt[j.toNat]

/-! ### The mapper (40_mapper) -/

/-- MAP as R61 writes it: fold the index, read the magnitude, shift it, then apply the sign. -/
def mapPhase (p : Params) (ph : Byte) : Byte :=
  applySign (phaseSign ph) (scale (qwtRead p (foldedIdx ph)))

/-- What arm MAP_Q0 returns (R65): no mirroring, no negation. -/
def armQ0 (p : Params) (idx : Idx) : Byte := scale (qwtRead p idx)

/-- What arm MAP_Q1 returns (R66): mirrored. -/
def armQ1 (p : Params) (idx : Idx) : Byte := scale (qwtRead p (mirrorIdx idx))

/-- What arm MAP_Q2 returns (R67): negated. -/
def armQ2 (p : Params) (idx : Idx) : Byte := neg8 (scale (qwtRead p idx))

/-- What arm MAP_Q3 returns (R68): mirrored and negated. -/
def armQ3 (p : Params) (idx : Idx) : Byte := neg8 (scale (qwtRead p (mirrorIdx idx)))

/-- A lane of the mapper returns a value (R63, R64): the other lane keeps its own. -/
def State.driveLane (s : State) : Lane → Byte → State
  | .x, v => { s with laneX := some v }
  | .y, v => { s with laneY := some v }

/-- The sampled phase of a TICK: the incremented phase (R77). -/
def sampledPhase (r : Regs) : Byte := r.phaseQ + 1

/-! ### The registers' D inputs -/

/-- Every register's reset value (R109). -/
def loadReset (p : Params) : Regs :=
  { phaseQ := 0x00
    flagQ := false
    rbXQ := p.initX.toByte
    rbYQ := p.initY.toByte
    syncQ := List.replicate p.tickSync.stages false
    edgeQ := false }

/-- One TICK's writes (R76): the phase, both displacement bytes and the ready flag. `r` is S_n and `d` the
D inputs. -/
def tickWrites (p : Params) (r d : Regs) : Regs :=
  { memWrite d (mapPhase p (yPhase (sampledPhase r)) ++ mapPhase p (sampledPhase r)) with
    phaseQ := sampledPhase r
    flagQ := true }

/-- The synchroniser's shift outside reset (R73): `sync_q[0] <- tick_i`, `sync_q[k] <- sync_q[k-1]`,
`edge_q <- sync_q[N-1]`. In pulse mode there is no synchroniser (R72) and nothing changes. -/
def shiftSync (p : Params) (r : Regs) (i : Inputs) : Regs :=
  match p.tickSync with
  | .pulse => r
  | .toggle _ =>
    { r with
      syncQ := (i.tick :: r.syncQ).take p.tickSync.stages
      edgeQ := lastStage p r }

/-! ### The ports -/

/-- The interrupt channel's outputs, driven in every cycle (R81, R82). -/
def driveInt (r : Regs) (i : Inputs) (o : Outputs) : Outputs :=
  { o with intValid := offered r i, intData := memRead r, intLen := 3 }

/-- A control answer (R90 to R92). -/
def driveCtl (len : Len) (data : Report) (o : Outputs) : Outputs :=
  { o with ctlRespLen := len, ctlRespData := data }

/-! ### The cycle -/

/-- The inputs the coming cycle samples: the head of the stimulus list, or a free value past its end (44_cycle
R97; log entry 6). -/
def State.sampled (s : State) : Inputs :=
  match s.pending with
  | i :: _ => i
  | [] => Config.freeInputs s.cycle

/-- Open a cycle: sample the inputs, drive the outputs that no operation changes (no control answer, R92),
shift the synchroniser outside reset (R73) and hold every other register. -/
def State.openCycle (s : State) : State :=
  { s with
    inp := s.sampled
    pending := s.pending.tail
    nxt := if s.sampled.rst then s.regs else shiftSync s.params s.regs s.sampled
    out := driveInt s.regs s.sampled (driveCtl 0 0x000000 s.out)
    laneX := none
    laneY := none }

/-- The decode word of the cycle being executed (R52). -/
def State.decodeWord (s : State) : DecodeWord :=
  assembleDw s.inp s.regs.flagQ (tickEff s.params s.regs s.inp)

/-- The mapper arms of the cycle: in a TICK each lane selects one by its phase value (R55), and no arm is
selected in a cycle without a TICK. -/
def State.mapperOps (s : State) : List Instr :=
  if tickOp s.params s.regs s.inp then
    [decodePhase .x (sampledPhase s.regs), decodePhase .y (yPhase (sampledPhase s.regs))]
  else []

/-- Every operation of the cycle (R53 to R55). -/
def State.operations (s : State) : List Instr :=
  s.mapperOps ++ decode s.params.reqGetReport (.dw s.decodeWord)

/-- Close a cycle: the edge loads every register (R12). -/
def State.closeCycle (s : State) : State :=
  { s with regs := s.nxt, cycle := s.cycle + 1 }

/-! ### Placing a word for the next cycle -/

/-- The synchroniser's edge register such that the next cycle's `tick_eff` is `t` (R73); in pulse mode it
keeps its value, for `tick_i` alone decides (R72). -/
def edgeFor (p : Params) (r : Regs) (t : Bool) : Bool :=
  match p.tickSync with
  | .pulse => r.edgeQ
  | .toggle _ => lastStage p r ^^ t

/-- Make the next cycle's decode word be `w` (R52): its inputs go to the head of the stimulus, its ready
flag into `flag_q`, its trigger onto `tick_i` and, in toggle mode, into `edge_q`. -/
def State.presentDw (s : State) (w : DecodeWord) : State :=
  { s with
    regs :=
      { s.regs with flagQ := dwFlag w, edgeQ := edgeFor s.params s.regs (dwTickEff w) }
    pending :=
      { rst := dwRst w
        tick := dwTickEff w
        intReady := dwIntReady w
        ctlValid := dwCtlValid w
        ctlBmrt := dwBmrt w
        ctlBreq := dwBreq w } :: s.pending }

/-- Make the next cycle a TICK whose phase in the given lane is `ph` (R55, R77). -/
def State.presentPhase (s : State) (lane : Lane) (ph : Byte) : State :=
  { s with
    regs :=
      { s.regs with
        phaseQ := match lane with | .x => ph - 1 | .y => ph - 64 - 1
        edgeQ := edgeFor s.params s.regs true }
    pending := Inputs.trigger :: s.pending }

/-- Make the next cycle one that selects the code word's operations. -/
def State.present (s : State) : CodeWord → State
  | .dw w => s.presentDw w
  | .phase lane ph => s.presentPhase lane ph

end Sys2Proof.Machine
end

