-- ==== Sys2Proof/Machine/Control.lean ====
section
/-! DEFINITION. The Control responder's operations (43_control_query R89 to R92). Neither writes a register. The
operands are the request's type byte and code byte, as the decode word carries them. -/

namespace Sys2Proof.Machine

/-- GET_REPORT (R90): length 3 and the buffer of S_n, whatever the ready flag is. A request that is not
handled (R89: another request, or reset) gets no answer here (R92). -/
def execGetReport (bmrt breq : Byte) (s : State) : Host.Outcome State Fault Refusal :=
  if isGetReport s.params bmrt breq && !s.inp.rst then
    .next { s with out := driveCtl 3 (memRead s.regs) s.out }
  else .next s

/-- CTL_UNHANDLED (R91): length 0 and data 0. -/
def execCtlUnhandled (bmrt breq : Byte) (s : State) : Host.Outcome State Fault Refusal :=
  if !isGetReport s.params bmrt breq && !s.inp.rst then
    .next { s with out := driveCtl 0 0x000000 s.out }
  else .next s

end Sys2Proof.Machine
end

