-- ==== Sys2Proof/Machine/Dispatcher.lean ====
section
/-! DEFINITION. The Dispatcher's operation, TRY_SEND (42_dispatcher R84, R85). -/

namespace Sys2Proof.Machine

/-- TRY_SEND (R84): in a transfer, present the buffer of S_n and claim the sample, where a TICK of the same
cycle keeps the flag (R85). Where the cycle is no transfer, nothing (R84, R86). -/
def execTrySend (s : State) : Host.Outcome State Fault Refusal :=
  if xfer s.regs s.inp then
    .next
      { s with
        out := driveInt s.regs s.inp s.out
        nxt :=
          { s.nxt with
            flagQ := claimFlag (tickOp s.params s.regs s.inp) s.nxt.flagQ } }
  else .next s

end Sys2Proof.Machine
end

