-- ==== Sys2Proof/Machine/Generator.lean ====
section
/-! DEFINITION. The Generator's operation, TICK (41_generator R76 to R79). -/

namespace Sys2Proof.Machine

/-- TICK (R76): advance the phase, write X = MAP(phase + 1) and Y = MAP(phase + 65), set the ready flag. It
reads neither the flag nor the channel (R76, R79: an unsent sample is overwritten). -/
def execTick (s : State) : Host.Outcome State Fault Refusal :=
  .next { s with nxt := tickWrites s.params s.regs s.nxt }

end Sys2Proof.Machine
end

