-- ==== Sys2Proof/Machine/Mapper.lean ====
section
/-! DEFINITION. The four arms of the mapper (40_mapper R65 to R68). An arm is combinational: it drives its lane
and writes no register and no flag. A TICK evaluates one arm in each lane (30_encoding R55). -/

namespace Sys2Proof.Machine

/-- MAP_Q0 (R65). -/
def execMapQ0 (lane : Lane) (idx : Idx) (s : State) : Host.Outcome State Fault Refusal :=
  .next (s.driveLane lane (armQ0 s.params idx))

/-- MAP_Q1 (R66). -/
def execMapQ1 (lane : Lane) (idx : Idx) (s : State) : Host.Outcome State Fault Refusal :=
  .next (s.driveLane lane (armQ1 s.params idx))

/-- MAP_Q2 (R67). -/
def execMapQ2 (lane : Lane) (idx : Idx) (s : State) : Host.Outcome State Fault Refusal :=
  .next (s.driveLane lane (armQ2 s.params idx))

/-- MAP_Q3 (R68). -/
def execMapQ3 (lane : Lane) (idx : Idx) (s : State) : Host.Outcome State Fault Refusal :=
  .next (s.driveLane lane (armQ3 s.params idx))

end Sys2Proof.Machine
end

