-- ==== Sys2Proof/Machine/Reset.lean ====
section
/-! DEFINITION. The operation RESET (70_reset_and_hazards R109). -/

namespace Sys2Proof.Machine

/-- RESET (R109): every register takes its reset value, the offer is withdrawn and a query is answered with
length 0. The data port carries the buffer of S_n. -/
def execReset (s : State) : Host.Outcome State Fault Refusal :=
  .next
    { s with
      nxt := loadReset s.params
      out :=
        { intValid := false
          intData := memRead s.regs
          intLen := 3
          ctlRespLen := 0
          ctlRespData := 0x000000 } }

end Sys2Proof.Machine
end

