-- ==== Sys2Proof/Machine/Dispatch.lean ====
section
/-! DEFINITION. The meaning of each operation, one arm per constructor of Instr. -/

namespace Sys2Proof.Machine

def exec (i : Instr) (s : State) : Host.Outcome State Fault Refusal :=
  match i with
  | .reset => Sys2Proof.Machine.execReset s
  | .tick => Sys2Proof.Machine.execTick s
  | .trySend => Sys2Proof.Machine.execTrySend s
  | .getReport bmrt breq => Sys2Proof.Machine.execGetReport bmrt breq s
  | .ctlUnhandled bmrt breq => Sys2Proof.Machine.execCtlUnhandled bmrt breq s
  | .mapQ0 lane idx => Sys2Proof.Machine.execMapQ0 lane idx s
  | .mapQ1 lane idx => Sys2Proof.Machine.execMapQ1 lane idx s
  | .mapQ2 lane idx => Sys2Proof.Machine.execMapQ2 lane idx s
  | .mapQ3 lane idx => Sys2Proof.Machine.execMapQ3 lane idx s

end Sys2Proof.Machine
end

