-- ==== Sys2Proof/Machine/Step.lean ====
section
/-! DEFINITION. One clock cycle (44_cycle R94): open the cycle, perform every operation its decode word and its
mapper lanes select, close it. The operations of one cycle read only S_n and I_n, so their order does not
matter (R96). -/

namespace Sys2Proof.Machine

/-- Perform operations of one cycle, one after the other. -/
def runOps : List Instr → State → Host.Outcome State Fault Refusal
  | [], s => .next s
  | i :: rest, s =>
    match exec i s with
    | .next t => runOps rest t
    | .fault r => .fault r
    | .refused r => .refused r

/-- One clock cycle (R94). -/
def step (s : State) : Host.Outcome State Fault Refusal :=
  match runOps s.openCycle.operations s.openCycle with
  | .next t => .next t.closeCycle
  | .fault r => .fault r
  | .refused r => .refused r

/-- The state whose very next step runs the instruction of a table row's bits (log entry 8). A word too wide
for any format changes nothing. -/
def State.withFetchWord (s : State) (nbits w : Nat) : State :=
  match tableCode nbits w with
  | .ok c => s.present c
  | .error _ => s

end Sys2Proof.Machine
end

