-- ==== Sys2Proof/Machine/Stimulus.lean ====
section
/-! DEFINITION. The stimulus language (30_encoding R59, R60): one line is one clock cycle. It is a notation for
input sequences, not a part of the block; its text form (commas, `;` comments) is not modelled, its lines
are lists of items. -/

namespace Sys2Proof.Machine

/-- An item of a line (R59). -/
inductive StimItem where
  /-- `RST` -/
  | rst
  /-- `TK`, a trigger -/
  | tk
  /-- `RDY` -/
  | rdy
  /-- `GET` -/
  | get
  /-- `CTL t, r` -/
  | ctl (bmrt breq : Byte)
deriving DecidableEq, Repr

/-- A line of a program or a pseudo-instruction (R59, R60). `line []` is `IDLE`. -/
inductive StimSource where
  | line (items : List StimItem)
  /-- `TICKS n` -/
  | ticks (n : Nat)
  /-- `TICKS n, RDY` -/
  | ticksRdy (n : Nat)
  /-- `WAIT n` -/
  | wait (n : Nat)
  /-- `BOOT` -/
  | boot
deriving DecidableEq, Repr

/-- The lines a pseudo-instruction expands to (R60). -/
def StimSource.expand : StimSource → List (List StimItem)
  | .line items => [items]
  | .ticks n => List.replicate n [.tk]
  | .ticksRdy n => List.replicate n [.tk, .rdy]
  | .wait n => List.replicate n []
  | .boot => [[.rst]]

/-- What an item sets beside the trigger line (R59). Of two requests on one line the later one stands (log
entry 9). -/
def StimItem.apply (p : Params) (i : Inputs) : StimItem → Inputs
  | .rst => { i with rst := true }
  | .tk => i
  | .rdy => { i with intReady := true }
  | .get => { i with ctlValid := true, ctlBmrt := 0xA1, ctlBreq := p.reqGetReport }
  | .ctl t r => { i with ctlValid := true, ctlBmrt := t, ctlBreq := r }

/-- The tick level after a line: `TK` flips it (R59, toggle mode). -/
def nextLevel (level : Bool) (items : List StimItem) : Bool :=
  if StimItem.tk ∈ items then !level else level

/-- The value a line puts on `tick_i` (R59): a pulse for `TK` in pulse mode, the level in toggle mode. -/
def lineTick (p : Params) (level : Bool) (items : List StimItem) : Bool :=
  match p.tickSync with
  | .pulse => decide (StimItem.tk ∈ items)
  | .toggle _ => nextLevel level items

/-- The inputs of one line (R59). -/
def lineInputs (p : Params) (level : Bool) (items : List StimItem) : Inputs :=
  { items.foldl (StimItem.apply p) Inputs.idle with tick := lineTick p level items }

/-- The inputs of a list of lines, from a tick level. -/
def assembleLines (p : Params) (level : Bool) : List (List StimItem) → List Inputs
  | [] => []
  | items :: rest => lineInputs p level items :: assembleLines p (nextLevel level items) rest

/-- The inputs of a program; the level is 0 at its start (R59). -/
def assemble (p : Params) (prog : List StimSource) : List Inputs :=
  assembleLines p false (prog.flatMap StimSource.expand)

/-- Place a program's inputs as the coming cycles' inputs. -/
def State.load (s : State) (prog : List StimSource) : State :=
  { s with pending := assemble s.params prog }

end Sys2Proof.Machine
end

