-- ==== Sys2Proof/Machine/WholeCycle.lean ====
section
/-! DEFINITION. The whole cycle as 44_cycle R94 writes it: one function from S_n and I_n to O_n and S_{n+1}. The
machine's step composes the operations instead; that the two agree is a statement of its own. -/

namespace Sys2Proof.Machine

/-- O_n of R94. -/
def cycleOutputs (p : Params) (r : Regs) (i : Inputs) : Outputs :=
  let get := i.ctlValid && (i.ctlBmrt.extractLsb' 5 2 == 0b01#2) && (i.ctlBreq == p.reqGetReport)
  let handled := !i.rst && get
  { intValid := r.flagQ && !i.rst
    intData := r.rbYQ ++ r.rbXQ ++ 0x00#8
    intLen := 3
    ctlRespLen := if handled then 3 else 0
    ctlRespData := if handled then r.rbYQ ++ r.rbXQ ++ 0x00#8 else 0x000000 }

/-- `tick_eff` of R94. -/
def cycleTickEff (p : Params) (r : Regs) (i : Inputs) : Bool :=
  if p.tickSync.stages = 0 then i.tick
  else r.syncQ.getD (p.tickSync.stages - 1) false ^^ r.edgeQ

/-- The synchroniser's next state in R94, outside reset: stage 0 takes `tick_i` and stage k takes stage
k − 1. -/
def cycleSync (p : Params) (r : Regs) (i : Inputs) : List Bool :=
  (List.range p.tickSync.stages).map fun k =>
    if k = 0 then i.tick else r.syncQ.getD (k - 1) false

/-- S_{n+1} of R94. -/
def cycleRegs (p : Params) (r : Regs) (i : Inputs) : Regs :=
  let tickOp := !i.rst && cycleTickEff p r i
  let xfer := !i.rst && r.flagQ && i.intReady
  let p1 := r.phaseQ + 1
  if i.rst then
    { phaseQ := 0x00
      flagQ := false
      rbXQ := p.initX.toByte
      rbYQ := p.initY.toByte
      syncQ := List.replicate p.tickSync.stages false
      edgeQ := false }
  else
    { phaseQ := if tickOp then p1 else r.phaseQ
      flagQ := tickOp || (r.flagQ && !xfer)
      rbXQ := if tickOp then mapPhase p p1 else r.rbXQ
      rbYQ := if tickOp then mapPhase p (p1 + 64) else r.rbYQ
      syncQ := cycleSync p r i
      edgeQ :=
        if 2 ≤ p.tickSync.stages then r.syncQ.getD (p.tickSync.stages - 1) false else r.edgeQ }

end Sys2Proof.Machine
end

