-- ==== Sys2Proof/Safety.lean ====
section
/-! DEFINITION. What the statements speak of: the invariant of a run, the record of a run's cycles (44_cycle R98:
a claim observes the outputs and the states of a finite window) and the transfers in it. -/

namespace Sys2Proof.Machine

/-- The synchroniser exists exactly when P_TICK_SYNC >= 2 (10_state R16, R21): N stages; in pulse mode no
stage and no edge. -/
abbrev SyncShape (p : Params) (r : Regs) : Prop :=
  r.syncQ.length = p.tickSync.stages ∧ (p.tickSync = .pulse → r.edgeQ = false)

/-- The buffer holds the sample of the current phase (41_generator R76, R77). -/
abbrev HoldsSample (p : Params) (r : Regs) : Prop :=
  r.rbXQ = mapPhase p r.phaseQ ∧ r.rbYQ = mapPhase p (yPhase r.phaseQ)

/-- No TICK since reset: the startup default stands, unflagged (90_conflicts C2, 10_state R19). -/
abbrev HoldsDefault (p : Params) (r : Regs) : Prop :=
  r.phaseQ = 0x00 ∧ r.flagQ = false ∧ r.rbXQ = p.initX.toByte ∧ r.rbYQ = p.initY.toByte

/-- The lengths the ports drive (30_encoding R50): codes 1 and 2 never. -/
abbrev LengthsLegal (o : Outputs) : Prop :=
  o.intLen = 3 ∧ (o.ctlRespLen = 0 ∨ o.ctlRespLen = 3)

/-- The invariant of a run after a reset: the parameters are admissible, the synchroniser has its shape, the
D inputs rest at the registers, the buffer holds the current sample or the startup default, and the
lengths are legal. -/
abbrev State.Inv (s : State) : Prop :=
  s.params.wf ∧ SyncShape s.params s.regs ∧ s.nxt = s.regs ∧
    (HoldsSample s.params s.regs ∨ HoldsDefault s.params s.regs) ∧ LengthsLegal s.out

/-- One executed cycle: S_n, I_n, O_n and S_{n+1}. -/
structure Cycle where
  pre : Regs
  inp : Inputs
  out : Outputs
  post : Regs
deriving DecidableEq, Repr

/-- A run of k steps: the host's `Host.Core.run` of this machine. -/
def runFor : Nat → State → Host.Outcome State Fault Refusal
  | 0, s => .next s
  | k + 1, s =>
    match step s with
    | .next t => runFor k t
    | .fault r => .fault r
    | .refused r => .refused r

/-- The cycles of a run of k steps, the first cycle first. -/
def history : Nat → State → List Cycle
  | 0, _ => []
  | k + 1, s =>
    match step s with
    | .next t => { pre := s.regs, inp := t.inp, out := t.out, post := t.regs } :: history k t
    | .fault _ => []
    | .refused _ => []

/-- The cycle performs a TICK (R76). -/
def Cycle.ticked (p : Params) (c : Cycle) : Bool := tickOp p c.pre c.inp

/-- The cycle is a transfer, seen at the ports: `int_valid_o` and `int_ready_i` (R83). -/
def Cycle.transferred (c : Cycle) : Bool := c.out.intValid && c.inp.intReady

/-- How many TICKs a run performs. -/
def tickCount (p : Params) (h : List Cycle) : Nat := h.countP (Cycle.ticked p)

/-- The run has no reset cycle. -/
def NoReset (h : List Cycle) : Prop := ∀ c ∈ h, c.inp.rst = false

/-- τ(t − d) of 41_generator R74, where the run's first cycle is cycle 0 and the cycle before it was the last
reset cycle: the level of `tick_i` sampled in cycle t − d, and 0 before cycle 0. -/
def sampledLevel (h : List Cycle) (t d : Nat) : Bool :=
  if d ≤ t then
    match h[t - d]? with
    | some c => c.inp.tick
    | none => false
  else false

/-- Cycle n of a run performs a TICK. -/
def TickAt (p : Params) (h : List Cycle) (n : Nat) : Prop :=
  ∃ c, h[n]? = some c ∧ c.ticked p = true

/-- Cycle n of a run is a transfer. -/
def TransferAt (h : List Cycle) (n : Nat) : Prop :=
  ∃ c, h[n]? = some c ∧ c.transferred = true

/-- Cycle n of a run is a reset cycle. -/
def ResetAt (h : List Cycle) (n : Nat) : Prop :=
  ∃ c, h[n]? = some c ∧ c.inp.rst = true

/-- The transfer of cycle n carries the bytes that cycle k left in the buffer. -/
def CarriesBytesOf (h : List Cycle) (n k : Nat) : Prop :=
  ∃ c d, h[n]? = some c ∧ h[k]? = some d ∧
    c.out.intData = d.post.rbYQ ++ d.post.rbXQ ++ 0x00#8

/-- Cycle n transfers the sample of the TICK of cycle k (42_dispatcher R87): a transfer after cycle k and at or
before the cycle of the next TICK, with cycle k's bytes. -/
def TransfersSampleOf (p : Params) (h : List Cycle) (n k : Nat) : Prop :=
  TransferAt h n ∧ TickAt p h k ∧ k < n ∧ (∀ j, k < j → j < n → ¬ TickAt p h j) ∧ CarriesBytesOf h n k

end Sys2Proof.Machine
end

