-- ==== Sys2Proof/Certificates/Slice0/Obligations.lean ====
section
/-! DEFINITION. The statements for the provers. Where a docstring names a rule, the Lean states that rule; where it
names the model's own choice, it names the log entry. -/

open Sys2Proof Sys2Proof.Machine

/-! ### Reset and the invariant of a run -/

/-- The reset values of 10_state R16 in `State.reset`. That the two displacement bytes are 0x01 and that
the synchroniser is absent is the model's choice of the open parameters there (log entries 1 and 3). -/
def Obligations.ResetStateHoldsResetValues : Prop :=
  State.reset.regs.phaseQ = 0x00 ∧ State.reset.regs.flagQ = false ∧
    State.reset.regs.rbXQ = State.reset.params.initX.toByte ∧
    State.reset.regs.rbYQ = State.reset.params.initY.toByte ∧
    State.reset.regs.rbXQ = 0x01 ∧ State.reset.regs.rbYQ = 0x01 ∧
    State.reset.regs.syncQ = [] ∧ State.reset.regs.edgeQ = false

/-- `State.reset` meets the invariant. Its table meets R24 (a), (b) and (c) for every choice of its free
entries (log entry 2), and its default bytes are the model's choice of sign (log entry 3). That its D
inputs equal its registers and that its output ports carry legal lengths is the model's choice of log
entry 4: 70_reset R110 leaves the outputs before a reset cycle open. -/
def Obligations.ResetStateMeetsInvariant : Prop := State.reset.Inv

/-- The invariant of a run: the parameters admissible (R24), the synchroniser present exactly in toggle
mode with its N stages (R16), the buffer the sample of the current phase or the unflagged startup
default (R76, 90_conflicts C2), the lengths 3 or 0 (R50). Every step keeps it. -/
def Obligations.StepKeepsInvariant : Prop :=
  ∀ s t : State, s.Inv → step s = .next t → t.Inv

/-- From any state whatever, as before the first reset (R110), one reset cycle establishes the
invariant. -/
def Obligations.ResetCycleEstablishesInvariant : Prop :=
  ∀ s : State, s.params.wf → s.sampled.rst = true → ∃ t, step s = .next t ∧ t.Inv

/-- RESET, the operation (pseudocode of 70_reset R109): every register's D input takes its reset value,
the offer and the control answer are withdrawn, the data port carries the buffer, and nothing else
changes. -/
def Obligations.ResetLoadsEveryRegister : Prop :=
  ∀ s : State,
    exec .reset s = .next
      { s with
        nxt :=
          { phaseQ := 0x00
            flagQ := false
            rbXQ := s.params.initX.toByte
            rbYQ := s.params.initY.toByte
            syncQ := List.replicate s.params.tickSync.stages false
            edgeQ := false }
        out :=
          { intValid := false
            intData := s.regs.rbYQ ++ s.regs.rbXQ ++ 0x00#8
            intLen := 3
            ctlRespLen := 0
            ctlRespData := 0x000000 } }

/-- The reset cycle (70_reset R109, whose worked example the spec marks as derived): the encoding, the
outputs and the registers after it, whatever else is asserted in the cycle; a second reset cycle leaves
the same registers; a GET_REPORT in the next cycle returns the default. -/
def Obligations.ResetCycleOverridesEverything : Prop :=
  (∀ (req : Byte) (w : DecodeWord), Instr.reset ∈ decodeDw req w ↔ w &&& 0x000001 = 0x000001) ∧
  (∀ s : State, s.sampled.rst = true →
    s.openCycle.operations = [.reset] ∧
    ∃ t, step s = .next t ∧
      t.regs =
        { phaseQ := 0x00
          flagQ := false
          rbXQ := s.params.initX.toByte
          rbYQ := s.params.initY.toByte
          syncQ := List.replicate s.params.tickSync.stages false
          edgeQ := false } ∧
      rbByte t.regs 0 = 0x00 ∧ t.params = s.params ∧
      t.out =
        { intValid := false
          intData := s.regs.rbYQ ++ s.regs.rbXQ ++ 0x00#8
          intLen := 3
          ctlRespLen := 0
          ctlRespData := 0x000000 } ∧
      (t.sampled.rst = true → ∃ u, step t = .next u ∧ u.regs = t.regs) ∧
      (t.sampled.rst = false → isGet t.params t.sampled = true →
        ∃ u, step t = .next u ∧ u.out.ctlRespLen = 3 ∧
          u.out.ctlRespData = s.params.initY.toByte ++ s.params.initX.toByte ++ 0x00#8))

/-! ### The step -/

/-- No operation faults or is refused, and every cycle has a next state, whatever the state, the
operands and the inputs (44_cycle R97, 60_exceptions R99). -/
def Obligations.EveryOperationAndEveryCycleAnswersNext : Prop :=
  (∀ (i : Instr) (s : State), ∃ t, exec i s = .next t) ∧ (∀ s : State, ∃ t, step s = .next t)

/-- The step is the step function of 44_cycle R94: from any registers whose synchroniser has its N
stages, the outputs and the next registers are those of R94's pseudocode, and the parameters stand. That
one cycle of stimulus is consumed, that the inputs are kept in `inp` and that the cycle is counted is
about the model's own fields (log entries 4 and 6), of which the spec says nothing. -/
def Obligations.StepIsTheWholeCycleFunction : Prop :=
  ∀ s : State, SyncShape s.params s.regs →
    ∃ t, step s = .next t ∧
      t.regs = cycleRegs s.params s.regs s.sampled ∧
      t.out = cycleOutputs s.params s.regs s.sampled ∧
      t.inp = s.sampled ∧ t.params = s.params ∧ t.pending = s.pending.tail ∧ t.cycle = s.cycle + 1

/-- A step runs the decoded operations: open the cycle, run exec of each, load the registers at the
closing edge. The one operation of a cycle without a TICK is run alone; a TICK is run after the two
mapper arms of its lanes, which write no register. -/
def Obligations.StepRunsTheDecodedOperation : Prop :=
  (∀ (s : State) (i : Instr), i.wf s.params.reqGetReport = true →
    decode s.params.reqGetReport (.dw s.openCycle.decodeWord) = [i] → i ≠ .tick →
    ∃ t, exec i s.openCycle = .next t ∧ step s = .next t.closeCycle) ∧
  (∀ s : State, decode s.params.reqGetReport (.dw s.openCycle.decodeWord) = [.tick] →
    ∃ a b t,
      exec (decodePhase .x (s.regs.phaseQ + 1)) s.openCycle = .next a ∧
      exec (decodePhase .y (s.regs.phaseQ + 1 + 64)) a = .next b ∧
      exec .tick b = .next t ∧ step s = .next t.closeCycle) ∧
  (∀ s t : State, runOps s.openCycle.operations s.openCycle = .next t → step s = .next t.closeCycle)

/-- The operations of one cycle may be performed in any order: every read is of S_n, so the outcome does
not depend on the order (44_cycle, section on simultaneous operations). -/
def Obligations.OperationsOfACycleCommute : Prop :=
  ∀ (s : State) (ops : List Instr), ops.Perm s.operations → runOps ops s = runOps s.operations s

/-- A word placed for the next cycle is what that cycle decodes: the decode word bit for bit, and a
phase value as the phase of its lane in a TICK. (How a word is placed is the model's choice, log entry
8.) -/
def Obligations.PlacedWordIsDecodedInTheNextCycle : Prop :=
  (∀ (s : State) (w : DecodeWord), (s.presentDw w).openCycle.decodeWord = w) ∧
  (∀ (s : State) (ph : Byte),
    (s.presentPhase .x ph).openCycle.operations =
      [decodePhase .x ph, decodePhase .y (ph + 64), .tick]) ∧
  (∀ (s : State) (ph : Byte),
    (s.presentPhase .y ph).openCycle.operations =
      [decodePhase .x (ph - 64), decodePhase .y ph, .tick])

/-- The parameters, the table among them, are never written (10_state R23, R24: "No operation writes
QWT"). -/
def Obligations.TableAndParametersAreReadOnly : Prop :=
  (∀ (i : Instr) (s t : State), exec i s = .next t → t.params = s.params) ∧
  (∀ (k : Nat) (s t : State), runFor k s = .next t → t.params = s.params)

/-! ### Encodings -/

/-- Decoding the encoding of a well-formed operation gives exactly that operation, for every code
P_REQ_GET_REPORT and every operand. -/
def Obligations.DecodeOfEncodeIsTheOperation : Prop :=
  ∀ (req : Byte) (i : Instr), i.wf req = true → decode req (encode i) = [i]

/-- Every operation a code word selects is well formed. -/
def Obligations.DecodedOperationsAreWellFormed : Prop :=
  ∀ (req : Byte) (c : CodeWord) (i : Instr), i ∈ decode req c → i.wf req = true

/-- PHASE8 (30_encoding R45): S is bit 7, M bit 6, IDX bits 5:0, the quadrant bits 7:6; all 256 values
are valid: each decodes to an arm that encodes back to it. -/
def Obligations.PhaseWordLayout : Prop :=
  ∀ p : Byte,
    phaseSign p = p[7] ∧ phaseMirror p = p[6] ∧ phaseIdx p = p.extractLsb 5 0 ∧
    phaseQuadrant p = p.extractLsb 7 6 ∧
    encode (decodePhase .x p) = .phase .x p ∧ encode (decodePhase .y p) = .phase .y p

/-- The folded index (30_encoding R46): 63 − IDX under M, which is the complement of IDX and never
borrows; IDX xor six copies of M; within 0 to 63; and the source's property. -/
def Obligations.FoldedIndexAssembly : Prop :=
  (∀ idx : Idx, idx.toNat ≤ 63 ∧ (mirrorIdx idx).toNat = 63 - idx.toNat ∧ mirrorIdx idx = ~~~idx) ∧
  (∀ p : Byte,
    foldedIdx p = (if p[6] then mirrorIdx (p.extractLsb' 0 6) else p.extractLsb' 0 6) ∧
    foldedIdx p = p.extractLsb' 0 6 ^^^ (if p[6] then 0b111111#6 else 0b000000#6) ∧
    (foldedIdx p).toNat ≤ 63 ∧
    (if p[6] then (foldedIdx p).toNat = 63 - (p &&& 63).toNat
      else (foldedIdx p).toNat = (p &&& 63).toNat))

/-- The Y phase (30_encoding R47, whose quadrant and IDX clauses the spec marks as derived): 64 ahead
modulo 256; bitwise as the rule gives it; one quadrant further; the same IDX; and it is the phase a TICK
maps for Y. -/
def Obligations.YPhaseAssembly : Prop :=
  (∀ p : Byte,
    (yPhase p).toNat = (p.toNat + 64) % 256 ∧
    yPhase p = BitVec.ofBool (p[7] ^^ p[6]) ++ BitVec.ofBool (!p[6]) ++ p.extractLsb' 0 6 ∧
    phaseQuadrant (yPhase p) = phaseQuadrant p + 1 ∧ phaseIdx (yPhase p) = phaseIdx p) ∧
  (∀ s : State, ∃ t, exec .tick s = .next t ∧
    t.nxt.rbYQ = mapPhase s.params (yPhase t.nxt.phaseQ))

/-- The scaled magnitude (30_encoding R48, whose bound the spec marks as derived): the upper four bits
of the table entry, at most 7 for an admissible table, and the displacement it gives. -/
def Obligations.ScaledMagnitudeAssembly : Prop :=
  (∀ mag : Byte, scale mag = mag >>> 4 ∧ scale mag = (mag.extractLsb' 4 4).setWidth 8) ∧
  (∀ p : Params, p.wf → ∀ j : Idx, (scale (qwtRead p j)).toNat ≤ 7) ∧
  (∀ (p : Params) (ph : Byte),
    mapPhase p ph =
      if ph[7] then neg8 (scale (qwtRead p (foldedIdx ph))) else scale (qwtRead p (foldedIdx ph)))

/-- The operation map (30_encoding R53): an operation is performed in a cycle exactly when its mask and
match hold on the decode word, and exactly when its condition on the inputs and the state holds; the
table's GET_REPORT row is the one for the code 0x01. -/
def Obligations.OperationsAreTheMatchedRows : Prop :=
  (∀ s : State,
    let w := s.decodeWord
    let c := s.params.reqGetReport
    (.reset ∈ s.operations ↔ w &&& 0x000001 = 0x000001) ∧
    (.reset ∈ s.operations ↔ s.inp.rst = true) ∧
    (.tick ∈ s.operations ↔ w &&& 0x000003 = 0x000002) ∧
    (.tick ∈ s.operations ↔ s.inp.rst = false ∧ tickEff s.params s.regs s.inp = true) ∧
    (.trySend ∈ s.operations ↔ w &&& 0x00000D = 0x00000C) ∧
    (.trySend ∈ s.operations ↔
      s.inp.rst = false ∧ s.regs.flagQ = true ∧ s.inp.intReady = true) ∧
    ((∃ b r, .getReport b r ∈ s.operations) ↔ w &&& 0x1FEC11 = c ++ 0x0410#13) ∧
    (∀ b r, .getReport b r ∈ s.operations ↔
      s.inp.rst = false ∧ s.inp.ctlValid = true ∧ s.inp.ctlBmrt.extractLsb' 5 2 = 0b01#2 ∧
        s.inp.ctlBreq = c ∧ b = s.inp.ctlBmrt ∧ r = s.inp.ctlBreq) ∧
    ((∃ b r, .ctlUnhandled b r ∈ s.operations) ↔
      w &&& 0x000011 = 0x000010 ∧ w &&& 0x1FEC11 ≠ c ++ 0x0410#13) ∧
    (∀ b r, .ctlUnhandled b r ∈ s.operations ↔
      s.inp.rst = false ∧ s.inp.ctlValid = true ∧
        ¬ (s.inp.ctlBmrt.extractLsb' 5 2 = 0b01#2 ∧ s.inp.ctlBreq = c) ∧
        b = s.inp.ctlBmrt ∧ r = s.inp.ctlBreq)) ∧
  (0x01#8 ++ 0x0410#13 = 0x002410#21)

/-- Co-occurrence (30_encoding R54, which the spec marks as derived from R53): RESET excludes every
other operation; TICK, TRY_SEND and a control operation may all occur in one cycle; the two control
operations exclude each other; an idle cycle changes no register but the synchroniser's. -/
def Obligations.OperationsThatMayOccurTogether : Prop :=
  (∀ s : State, .reset ∈ s.operations → s.operations = [.reset]) ∧
  (∃ s : State, ∃ b r, .tick ∈ s.operations ∧ .trySend ∈ s.operations ∧
    .getReport b r ∈ s.operations) ∧
  (∃ s : State, ∃ b r, .tick ∈ s.operations ∧ .trySend ∈ s.operations ∧
    .ctlUnhandled b r ∈ s.operations) ∧
  (∀ (s : State) (b r b' r' : Byte),
    ¬ (.getReport b r ∈ s.operations ∧ .ctlUnhandled b' r' ∈ s.operations)) ∧
  (∀ s : State, s.openCycle.operations = [] →
    ∃ t, step s = .next t ∧
      t.regs =
        { s.regs with
          syncQ := (shiftSync s.params s.regs s.sampled).syncQ
          edgeQ := (shiftSync s.params s.regs s.sampled).edgeQ })

/-- The mapper arms of a cycle (30_encoding R55, which the spec marks as derived): in a TICK, each lane
selects one of the four arms by bits 7:6 of its phase, by the masks and matches of the rule, and Y's
quadrant follows X's. -/
def Obligations.MapperArmsOfATick : Prop :=
  (∀ s : State, .tick ∈ s.operations →
    ∃ i j, s.mapperOps = [i, j] ∧ i = decodePhase .x (s.regs.phaseQ + 1) ∧
      j = decodePhase .y (s.regs.phaseQ + 1 + 64)) ∧
  (∀ s : State, .tick ∉ s.operations → s.mapperOps = []) ∧
  (∀ (lane : Lane) (p : Byte),
    (p &&& 0xC0 = 0x00 ↔ decodePhase lane p = .mapQ0 lane (p.extractLsb' 0 6)) ∧
    (p &&& 0xC0 = 0x40 ↔ decodePhase lane p = .mapQ1 lane (p.extractLsb' 0 6)) ∧
    (p &&& 0xC0 = 0x80 ↔ decodePhase lane p = .mapQ2 lane (p.extractLsb' 0 6)) ∧
    (p &&& 0xC0 = 0xC0 ↔ decodePhase lane p = .mapQ3 lane (p.extractLsb' 0 6)) ∧
    phaseQuadrant (p + 64) = phaseQuadrant p + 1)

/-- CIW (30_encoding R58): the bit of each port, and both round trips. -/
def Obligations.InputWordLayoutAndRoundTrip : Prop :=
  (∀ w : InputWord,
    (decodeCiw w).rst = w[0] ∧ (decodeCiw w).tick = w[1] ∧ (decodeCiw w).intReady = w[2] ∧
    (decodeCiw w).ctlValid = w[3] ∧ (decodeCiw w).ctlBmrt = w.extractLsb 11 4 ∧
    (decodeCiw w).ctlBreq = w.extractLsb 19 12 ∧ encodeCiw (decodeCiw w) = w) ∧
  (∀ i : Inputs, decodeCiw (encodeCiw i) = i)

/-- A few words of the opcode table and of the spec's decode vectors (95_test_vectors T4, T5) decode as
the spec says. -/
def Obligations.SpecWordsDecode : Prop :=
  decodeDw 0x01 0x000000 = [] ∧ decodeDw 0x01 0x000004 = [] ∧ decodeDw 0x01 0x000002 = [.tick] ∧
  decodeDw 0x01 0x00000E = [.tick, .trySend] ∧
  decodeDw 0x01 0x00343E = [.tick, .trySend, .getReport 0xA1 0x01] ∧
  decodeDw 0x01 0x00343F = [.reset] ∧
  decodeDw 0x01 0x00D010 = [.ctlUnhandled 0x80 0x06] ∧
  decodeDw 0x09 0x003430 = [.ctlUnhandled 0xA1 0x01] ∧
  decodePhase .x 0x05 = .mapQ0 .x 5 ∧ decodePhase .y 0x7F = .mapQ1 .y 63 ∧
  decodePhase .x 0x85 = .mapQ2 .x 5 ∧ decodePhase .y 0xC5 = .mapQ3 .y 5

/-- The encodings of the common stimulus lines and the expansions of the pseudo-instructions
(30_encoding R60). -/
def Obligations.StimulusLinesEncode : Prop :=
  (∀ n : Nat, (StimSource.ticks n).expand = List.replicate n [.tk] ∧
    (StimSource.ticksRdy n).expand = List.replicate n [.tk, .rdy] ∧
    (StimSource.wait n).expand = List.replicate n [] ∧ StimSource.boot.expand = [[.rst]]) ∧
  (∀ p : Params, p.tickSync = .pulse → p.reqGetReport = 0x01 →
    (assemble p [.line [.rst], .line [.tk], .line [.rdy], .line [.tk, .rdy], .line [.get],
        .line [.get, .rdy], .line []]).map encodeCiw =
      [0x00001, 0x00002, 0x00004, 0x00006, 0x01A18, 0x01A1C, 0x00000])

/-- In toggle mode the trigger line of a stimulus program carries, in each cycle, the parity of the
lines with `TK` up to that cycle (30_encoding, the stimulus syntax). That a line with `TK` more than
once counts once is the model's choice (log entry 9). -/
def Obligations.StimulusLevelTogglesOncePerTrigger : Prop :=
  ∀ (p : Params) (e : Nat) (lines : List (List StimItem)) (k : Nat) (i : Inputs),
    p.tickSync = .toggle e → (assembleLines p false lines)[k]? = some i →
    i.tick = decide (((lines.take (k + 1)).countP fun l => decide (StimItem.tk ∈ l)) % 2 = 1)

/-! ### The mapper -/

/-- MAP's pseudocode (40_mapper R61): sign, mirror and index from the phase's bits, the table read, the
shift of the unsigned magnitude, then the sign. -/
def Obligations.MapFollowsItsPseudocode : Prop :=
  ∀ (p : Params) (ph : Byte),
    let idx : Idx := ph.extractLsb' 0 6
    let j : Idx := if ph[6] then 63 - idx else idx
    let v : Byte := p.qwt[j.toNat] >>> 4
    mapPhase p ph = if ph[7] then BitVec.ofNat 8 ((256 - v.toNat) % 256) else v

/-- Scaling before the sign (40_mapper R62): the displacement is the magnitude's quotient by 16 with the
sign applied after; for magnitude 0x7F negated it is −7, where shifting after negating would give −8. -/
def Obligations.ScalingComesBeforeTheSign : Prop :=
  (∀ (p : Params) (ph : Byte),
    signedValue (mapPhase p ph) =
      if ph[7] then -(((qwtRead p (foldedIdx ph)).toNat / 16 : Nat) : Int)
      else (((qwtRead p (foldedIdx ph)).toNat / 16 : Nat) : Int)) ∧
  signedValue (applySign true (scale 0x7F)) = -7 ∧ Int.fdiv (-0x7F) 16 = -8

/-- MAP_Q0 (40_mapper R65): the arm's result, its encoding, no register, flag or port written, the
corner cases and the range under an admissible table. -/
def Obligations.MapQ0RisingPositive : Prop :=
  (∀ (s : State) (lane : Lane) (idx : Idx),
    exec (.mapQ0 lane idx) s = .next
      (match lane with
      | .x => { s with laneX := some (s.params.qwt[idx.toNat] >>> 4) }
      | .y => { s with laneY := some (s.params.qwt[idx.toNat] >>> 4) })) ∧
  (∀ (p : Params) (lane : Lane) (ph : Byte), ph &&& 0xC0 = 0x00 →
    decodePhase lane ph = .mapQ0 lane (ph.extractLsb' 0 6) ∧
    mapPhase p ph = qwtRead p (ph.extractLsb' 0 6) >>> 4 ∧
    (p.wf → (mapPhase p ph).toNat ≤ 0x07)) ∧
  (∀ p : Params, p.wf → mapPhase p 0x00 = 0x00 ∧ mapPhase p 0x3F = 0x07) ∧
  (∀ (p : Params) (idx : Idx), qwtRead p idx < 0x10 → qwtRead p idx >>> 4 = 0)

/-- MAP_Q1 (40_mapper R66, whose two-sample peak the spec marks as derived): mirrored, not negated. -/
def Obligations.MapQ1FallingPositive : Prop :=
  (∀ (s : State) (lane : Lane) (idx : Idx),
    exec (.mapQ1 lane idx) s = .next
      (match lane with
      | .x => { s with laneX := some (s.params.qwt[(63 - idx).toNat] >>> 4) }
      | .y => { s with laneY := some (s.params.qwt[(63 - idx).toNat] >>> 4) })) ∧
  (∀ (p : Params) (lane : Lane) (ph : Byte), ph &&& 0xC0 = 0x40 →
    decodePhase lane ph = .mapQ1 lane (ph.extractLsb' 0 6) ∧
    mapPhase p ph = qwtRead p (63 - ph.extractLsb' 0 6) >>> 4) ∧
  (∀ p : Params, p.wf → mapPhase p 0x40 = 0x07 ∧ mapPhase p 0x7F = 0x00 ∧
    mapPhase p 0x3F = mapPhase p 0x40)

/-- MAP_Q2 (40_mapper R67): not mirrored, negated; no negative zero; the range under an admissible
table. -/
def Obligations.MapQ2FallingNegative : Prop :=
  (∀ (s : State) (lane : Lane) (idx : Idx),
    exec (.mapQ2 lane idx) s = .next
      (match lane with
      | .x => { s with laneX := some (-(s.params.qwt[idx.toNat] >>> 4)) }
      | .y => { s with laneY := some (-(s.params.qwt[idx.toNat] >>> 4)) })) ∧
  (∀ (p : Params) (lane : Lane) (ph : Byte), ph &&& 0xC0 = 0x80 →
    decodePhase lane ph = .mapQ2 lane (ph.extractLsb' 0 6) ∧
    mapPhase p ph = neg8 (qwtRead p (ph.extractLsb' 0 6) >>> 4) ∧
    (p.wf → mapPhase p ph = 0x00 ∨ 0xF9 ≤ (mapPhase p ph).toNat)) ∧
  neg8 0x00 = 0x00 ∧
  (∀ p : Params, p.wf → mapPhase p 0x80 = 0x00 ∧ mapPhase p 0xBF = 0xF9)

/-- MAP_Q3 (40_mapper R68, whose two-sample trough the spec marks as derived): mirrored and negated. -/
def Obligations.MapQ3RisingNegative : Prop :=
  (∀ (s : State) (lane : Lane) (idx : Idx),
    exec (.mapQ3 lane idx) s = .next
      (match lane with
      | .x => { s with laneX := some (-(s.params.qwt[(63 - idx).toNat] >>> 4)) }
      | .y => { s with laneY := some (-(s.params.qwt[(63 - idx).toNat] >>> 4)) })) ∧
  (∀ (p : Params) (lane : Lane) (ph : Byte), ph &&& 0xC0 = 0xC0 →
    decodePhase lane ph = .mapQ3 lane (ph.extractLsb' 0 6) ∧
    mapPhase p ph = neg8 (qwtRead p (63 - ph.extractLsb' 0 6) >>> 4)) ∧
  (∀ p : Params, p.wf → mapPhase p 0xC0 = 0xF9 ∧ mapPhase p 0xFF = 0x00 ∧
    mapPhase p 0xBF = mapPhase p 0xC0)

/-- Range (40_mapper R69, which the spec marks as derived): −7 to +7 for every admissible table, with
the extremes at the four phases the rule names; so within ±8 and within the report's −127 to 127. -/
def Obligations.MapStaysWithinSeven : Prop :=
  ∀ p : Params, p.wf →
    (∀ ph : Byte, -7 ≤ signedValue (mapPhase p ph) ∧ signedValue (mapPhase p ph) ≤ 7) ∧
    signedValue (mapPhase p 0x3F) = 7 ∧ signedValue (mapPhase p 0x40) = 7 ∧
    signedValue (mapPhase p 0xBF) = -7 ∧ signedValue (mapPhase p 0xC0) = -7

/-- Symmetries (40_mapper R70, which the spec marks as derived), for every table: flipping bit 7
negates, flipping bits 6:0 changes nothing, and MAP depends only on the table after the shift. -/
def Obligations.MapSymmetries : Prop :=
  (∀ (p : Params) (ph : Byte), mapPhase p (ph ^^^ 0x80) = neg8 (mapPhase p ph)) ∧
  (∀ (p : Params) (ph : Byte), mapPhase p (ph ^^^ 0x7F) = mapPhase p ph) ∧
  (∀ (p : Params) (ph : Byte), ph < 128 → mapPhase p (127 - ph) = mapPhase p ph) ∧
  (∀ p q : Params, (∀ j : Idx, qwtRead p j >>> 4 = qwtRead q j >>> 4) →
    ∀ ph : Byte, mapPhase p ph = mapPhase q ph)

/-- Table-independent values (40_mapper R71, which the spec marks as derived): the eight phases whose
folded index is 0 or 63 and their results; every other phase reads an entry 1 to 62; MAP rises over
quadrant 0 and falls over quadrant 1. -/
def Obligations.TableIndependentPhases : Prop :=
  (∀ ph : Byte, (foldedIdx ph = 0 ∨ foldedIdx ph = 63) ↔
    ph ∈ [0x00#8, 0x3F#8, 0x40#8, 0x7F#8, 0x80#8, 0xBF#8, 0xC0#8, 0xFF#8]) ∧
  (∀ p : Params, p.wf →
    mapPhase p 0x00 = 0x00 ∧ mapPhase p 0x3F = 0x07 ∧ mapPhase p 0x40 = 0x07 ∧
    mapPhase p 0x7F = 0x00 ∧ mapPhase p 0x80 = 0x00 ∧ mapPhase p 0xBF = 0xF9 ∧
    mapPhase p 0xC0 = 0xF9 ∧ mapPhase p 0xFF = 0x00) ∧
  (∀ (p : Params) (ph : Byte),
    ph ∉ [0x00#8, 0x3F#8, 0x40#8, 0x7F#8, 0x80#8, 0xBF#8, 0xC0#8, 0xFF#8] →
    ∃ j : Idx, 1 ≤ j.toNat ∧ j.toNat ≤ 62 ∧
      (mapPhase p ph = qwtRead p j >>> 4 ∨ mapPhase p ph = neg8 (qwtRead p j >>> 4))) ∧
  (∀ p : Params, p.wf → ∀ a b : Byte, a ≤ b →
    (b < 0x40 → mapPhase p a ≤ mapPhase p b) ∧
    (0x40 ≤ a → b < 0x80 → mapPhase p b ≤ mapPhase p a))

/-! ### The Generator -/

/-- TICK, the operation (pseudocode of 41_generator R76): the phase, both bytes of the buffer and the
flag, from S_n; nothing else changes; the buffer's byte 0 reads 0 before and after. -/
def Obligations.TickAdvancesPhaseAndWritesSample : Prop :=
  ∀ s : State,
    exec .tick s = .next
      { s with
        nxt :=
          { s.nxt with
            phaseQ := s.regs.phaseQ + 1
            rbXQ := mapPhase s.params (s.regs.phaseQ + 1)
            rbYQ := mapPhase s.params (s.regs.phaseQ + 1 + 64)
            flagQ := true } } ∧
    ∀ t, exec .tick s = .next t →
      (∀ a : Fin 3, a ≠ 1 → a ≠ 2 → rbByte t.nxt a = rbByte s.nxt a) ∧ rbByte t.nxt 0 = 0x00

/-- The TICK cycle (41_generator R76): the encoding; the next state, whatever the flag, the channel and
the query are; what TICK reads; the corner case at 0xFF and the worked example at 0x3F, under an
admissible table. -/
def Obligations.TickCycleFollowsItsRule : Prop :=
  (∀ (req : Byte) (w : DecodeWord), Instr.tick ∈ decodeDw req w ↔ w &&& 0x000003 = 0x000002) ∧
  (∀ s u : State, s.params = u.params → s.regs.phaseQ = u.regs.phaseQ →
    ∃ t v, exec .tick s = .next t ∧ exec .tick u = .next v ∧
      t.nxt.phaseQ = v.nxt.phaseQ ∧ t.nxt.rbXQ = v.nxt.rbXQ ∧ t.nxt.rbYQ = v.nxt.rbYQ ∧
      t.nxt.flagQ = v.nxt.flagQ) ∧
  (∀ s : State, s.sampled.rst = false → tickEff s.params s.regs s.sampled = true →
    ∃ t, step s = .next t ∧
      t.regs.phaseQ = s.regs.phaseQ + 1 ∧
      t.regs.rbXQ = mapPhase s.params (s.regs.phaseQ + 1) ∧
      t.regs.rbYQ = mapPhase s.params (s.regs.phaseQ + 1 + 64) ∧
      t.regs.flagQ = true ∧ rbByte t.regs 0 = 0x00 ∧
      (s.params.wf → s.regs.phaseQ = 0xFF →
        t.regs.phaseQ = 0x00 ∧ t.regs.rbXQ = 0x00 ∧ t.regs.rbYQ = 0x07) ∧
      (s.params.wf → s.regs.phaseQ = 0x3F →
        t.regs.phaseQ = 0x40 ∧ t.regs.rbXQ = 0x07 ∧ t.regs.rbYQ = 0x00))

/-- Pulse mode (41_generator R72): `tick_eff = tick_i`, and a cycle outside reset advances the phase
exactly when `tick_i = 1` and leaves the synchroniser's fields. R72 says that no synchroniser state
exists; that the model holds this absence as an empty list and a false edge bit is its choice (log entry
5), which the second clause reads off the shape `SyncShape`. -/
def Obligations.PulseModeTriggers : Prop :=
  ∀ s : State, s.params.tickSync = .pulse →
    (∀ i : Inputs, tickEff s.params s.regs i = i.tick) ∧
    (SyncShape s.params s.regs → s.regs.syncQ = [] ∧ s.regs.edgeQ = false) ∧
    ∃ t, step s = .next t ∧
      (s.sampled.rst = false →
        t.regs.phaseQ = s.regs.phaseQ + (if s.sampled.tick then 1 else 0) ∧
        t.regs.syncQ = s.regs.syncQ ∧ t.regs.edgeQ = s.regs.edgeQ)

/-- Toggle mode (41_generator R73): `tick_eff` compares the last stage with the edge register; outside
reset the chain takes `tick_i` and shifts and the edge register follows the last stage; in reset every
bit is 0. -/
def Obligations.ToggleModeShifts : Prop :=
  ∀ (s : State) (e : Nat), s.params.tickSync = .toggle e → s.regs.syncQ.length = e + 2 →
    (∀ i : Inputs, tickEff s.params s.regs i = (s.regs.syncQ.getD (e + 1) false ^^ s.regs.edgeQ)) ∧
    ∃ t, step s = .next t ∧ t.regs.syncQ.length = e + 2 ∧
      (s.sampled.rst = false →
        t.regs.syncQ[0]? = some s.sampled.tick ∧
        (∀ k, 1 ≤ k → k < e + 2 → t.regs.syncQ[k]? = s.regs.syncQ[k - 1]?) ∧
        s.regs.syncQ[e + 1]? = some t.regs.edgeQ) ∧
      (s.sampled.rst = true → (∀ b ∈ t.regs.syncQ, b = false) ∧ t.regs.edgeQ = false)

/-- Toggle-mode timing (41_generator, the closed form of section 1, which the spec marks as derived):
after a reset, with no reset since, the trigger of cycle t is the exclusive or of the levels sampled N
and N + 1 cycles before it. -/
def Obligations.ToggleTriggerIsDelayedLevelChange : Prop :=
  ∀ (k e : Nat) (s t : State), s.params.tickSync = .toggle e → s.regs = Regs.atReset s.params →
    runFor k s = .next t → NoReset (history k s) →
    ∀ i : Inputs, tickEff s.params t.regs i =
      (sampledLevel (history k s) k (e + 2) ^^ sampledLevel (history k s) k (e + 3))

/-- The spurious trigger after reset (70_reset, section 2 Hazards, which the spec marks as derived): in
toggle mode a level that is 1 from the first cycle after reset performs exactly one TICK in the first N
+ 1 cycles, although the line never changed. -/
def Obligations.LevelHeldThroughResetTicksOnce : Prop :=
  ∀ (e : Nat) (s t : State), s.params.tickSync = .toggle e → s.regs = Regs.atReset s.params →
    runFor (e + 3) s = .next t → NoReset (history (e + 3) s) →
    (∀ c ∈ history (e + 3) s, c.inp.tick = true) →
    tickCount s.params (history (e + 3) s) = 1 ∧ t.regs.phaseQ = 0x01 ∧ t.regs.flagQ = true

/-- Determinism and period (41_generator R80, which the spec marks as derived): after a reset, with no
reset since, n TICKs leave phase n mod 256, and the n-th TICK (n at least 1) has written X = MAP(n mod
256) and Y = MAP((n + 64) mod 256). The last clause, that these values repeat every 256, holds of any
function of a byte: it is the period only together with the first. -/
def Obligations.KthTickAfterReset : Prop :=
  (∀ (k : Nat) (s t : State), s.regs = Regs.atReset s.params →
    runFor k s = .next t → NoReset (history k s) →
    t.regs.phaseQ = BitVec.ofNat 8 (tickCount s.params (history k s)) ∧
    (1 ≤ tickCount s.params (history k s) →
      t.regs.rbXQ = mapPhase s.params (BitVec.ofNat 8 (tickCount s.params (history k s))) ∧
      t.regs.rbYQ = mapPhase s.params (BitVec.ofNat 8 (tickCount s.params (history k s) + 64)))) ∧
  (∀ (p : Params) (n : Nat),
    mapPhase p (BitVec.ofNat 8 (n + 256)) = mapPhase p (BitVec.ofNat 8 n))

/-! ### The Dispatcher -/

/-- TRY_SEND, the operation (pseudocode of 42_dispatcher R84): in a transfer it presents the buffer of
S_n and clears the flag, unless the cycle's TICK sets it; outside a transfer it changes nothing. -/
def Obligations.TrySendClaimsAndPresents : Prop :=
  ∀ s : State,
    (s.inp.rst = false → s.regs.flagQ = true → s.inp.intReady = true →
      exec .trySend s = .next
        { s with
          out :=
            { s.out with
              intValid := true
              intData := s.regs.rbYQ ++ s.regs.rbXQ ++ 0x00#8
              intLen := 3 }
          nxt :=
            { s.nxt with
              flagQ := if tickEff s.params s.regs s.inp then s.nxt.flagQ else false } }) ∧
    (¬ (s.inp.rst = false ∧ s.regs.flagQ = true ∧ s.inp.intReady = true) →
      exec .trySend s = .next s)

/-- The offer and the data (42_dispatcher R81, R82): in every cycle. -/
def Obligations.OfferAndDataInEveryCycle : Prop :=
  ∀ s : State, ∃ t, step s = .next t ∧
    t.out.intValid = (s.regs.flagQ && !s.sampled.rst) ∧
    t.out.intData = s.regs.rbYQ ++ s.regs.rbXQ ++ 0x00#8 ∧ t.out.intLen = 3

/-- The set wins (42_dispatcher R85): the ready flag's next value outside reset; when a TICK and a
transfer meet, the transfer carries the older sample and the TICK's sample stays flagged; a flag is
never cleared without a transfer or a reset, and stays set in a transfer only where a TICK set it. -/
def Obligations.ReadyFlagSetWinsOverClear : Prop :=
  ∀ s : State, s.sampled.rst = false →
    ∃ t, step s = .next t ∧
      t.regs.flagQ =
        (tickEff s.params s.regs s.sampled ||
          (s.regs.flagQ && !(t.out.intValid && s.sampled.intReady))) ∧
      (tickEff s.params s.regs s.sampled = true → t.out.intValid = true →
        s.sampled.intReady = true →
        t.out.intData = s.regs.rbYQ ++ s.regs.rbXQ ++ 0x00#8 ∧ t.regs.flagQ = true ∧
        t.regs.rbXQ = mapPhase s.params (s.regs.phaseQ + 1) ∧
        t.regs.rbYQ = mapPhase s.params (s.regs.phaseQ + 1 + 64)) ∧
      (s.regs.flagQ = true → t.regs.flagQ = false →
        t.out.intValid = true ∧ s.sampled.intReady = true) ∧
      (t.out.intValid = true → s.sampled.intReady = true → t.regs.flagQ = true →
        tickEff s.params s.regs s.sampled = true)

/-- Backpressure (42_dispatcher, section 2): while the channel stays busy and there is no reset, a
flagged sample stays offered; without a TICK its bytes and the phase stand. -/
def Obligations.BackpressureHoldsTheOffer : Prop :=
  ∀ (k : Nat) (s t : State), s.regs.flagQ = true → runFor k s = .next t →
    NoReset (history k s) → (∀ c ∈ history k s, c.inp.intReady = false) →
    t.regs.flagQ = true ∧ (∀ c ∈ history k s, c.out.intValid = true) ∧
    (tickCount s.params (history k s) = 0 →
      t.regs.rbXQ = s.regs.rbXQ ∧ t.regs.rbYQ = s.regs.rbYQ ∧ t.regs.phaseQ = s.regs.phaseQ)

/-- Delivery (42_dispatcher R87, which the spec marks as derived), in any run from the reset registers,
further resets admitted: (a) no transfer on a busy channel; (b) a TICK between any two transfers; (c) a
transfer carries the bytes of the last TICK before it; (d) no transfer before the first TICK after a
reset; (e) each TICK's sample is transferred at most once, and it is exactly when a transfer follows
that TICK at or before the cycle of the next one. -/
def Obligations.DeliveryAtMostOncePerSample : Prop :=
  ∀ (k : Nat) (s : State), s.regs = Regs.atReset s.params →
    let h := history k s
    let p := s.params
    (∀ c ∈ h, c.transferred = true → c.inp.intReady = true) ∧
    (∀ m n, m < n → TransferAt h m → TransferAt h n → ∃ j, m ≤ j ∧ j < n ∧ TickAt p h j) ∧
    (∀ n, TransferAt h n → ∃ j, TransfersSampleOf p h n j ∧
      ∀ r, j < r → r < n → ¬ ResetAt h r) ∧
    (∀ n, (∀ j, j < n → TickAt p h j → ∃ r, j < r ∧ r < n ∧ ResetAt h r) → ¬ TransferAt h n) ∧
    (∀ j m n, TransfersSampleOf p h m j → TransfersSampleOf p h n j → m = n) ∧
    (∀ j, TickAt p h j →
      ((∃ n, j < n ∧ TransferAt h n ∧ ∀ l, j < l → l < n → ¬ TickAt p h l) ↔
        ∃ n, TransfersSampleOf p h n j))

/-- A TICK and a transfer in one cycle (70_reset R113, which the spec marks as derived): the transfer
carries the older sample, the flag stays 1, and the TICK's sample is offered in the next cycle outside
reset, to be taken by a transfer then. -/
def Obligations.SameCycleTickAndTransfer : Prop :=
  ∀ s : State, s.sampled.rst = false → s.regs.flagQ = true → s.sampled.intReady = true →
    tickEff s.params s.regs s.sampled = true →
    ∃ t, step s = .next t ∧ t.out.intValid = true ∧
      t.out.intData = s.regs.rbYQ ++ s.regs.rbXQ ++ 0x00#8 ∧ t.regs.flagQ = true ∧
      (t.sampled.rst = false →
        ∃ u, step t = .next u ∧ u.out.intValid = true ∧
          u.out.intData =
            mapPhase s.params (s.regs.phaseQ + 1 + 64) ++ mapPhase s.params (s.regs.phaseQ + 1)
              ++ 0x00#8)

/-! ### The Control responder -/

/-- GET_REPORT, the operation (43_control_query R90): a class request with the code P_REQ_GET_REPORT
outside reset is answered with length 3 and the buffer, whatever the ready flag, the direction and the
recipient are; no register changes. That the operation does not test `ctl_valid_i` again, and that with
other operands or in reset it changes nothing, is the model's deduction (log entry 10). -/
def Obligations.GetReportAnswersWithTheBuffer : Prop :=
  ∀ (s : State) (bmrt breq : Byte),
    (bmrt.extractLsb' 5 2 = 0b01#2 → breq = s.params.reqGetReport → s.inp.rst = false →
      exec (.getReport bmrt breq) s = .next
        { s with
          out :=
            { s.out with
              ctlRespLen := 3
              ctlRespData := s.regs.rbYQ ++ s.regs.rbXQ ++ 0x00#8 } }) ∧
    (¬ (bmrt.extractLsb' 5 2 = 0b01#2 ∧ breq = s.params.reqGetReport ∧ s.inp.rst = false) →
      exec (.getReport bmrt breq) s = .next s)

/-- CTL_UNHANDLED, the operation (43_control_query R91): any other request outside reset is answered
with length 0 and data 0; no register changes. That the operation does not test `ctl_valid_i` again, and
that with the operands of a get-report request or in reset it changes nothing, is the model's deduction
(log entry 10). -/
def Obligations.UnhandledRequestAnswersLengthZero : Prop :=
  ∀ (s : State) (bmrt breq : Byte),
    (¬ (bmrt.extractLsb' 5 2 = 0b01#2 ∧ breq = s.params.reqGetReport) → s.inp.rst = false →
      exec (.ctlUnhandled bmrt breq) s = .next
        { s with out := { s.out with ctlRespLen := 0, ctlRespData := 0x000000 } }) ∧
    (bmrt.extractLsb' 5 2 = 0b01#2 ∧ breq = s.params.reqGetReport ∨ s.inp.rst = true →
      exec (.ctlUnhandled bmrt breq) s = .next s)

/-- The control answer of a cycle (30_encoding R50, 43_control_query R92): length 3 for a handled query
and 0 otherwise, so 0 with no query and in reset; the interrupt length always 3; codes 1 and 2 never. -/
def Obligations.ControlAnswerOfACycle : Prop :=
  ∀ s : State, ∃ t, step s = .next t ∧
    t.out.intLen = 3 ∧
    (handled s.params s.sampled = true →
      t.out.ctlRespLen = 3 ∧ t.out.ctlRespData = s.regs.rbYQ ++ s.regs.rbXQ ++ 0x00#8) ∧
    (handled s.params s.sampled = false →
      t.out.ctlRespLen = 0 ∧ t.out.ctlRespData = 0x000000) ∧
    (s.sampled.ctlValid = false ∨ s.sampled.rst = true →
      t.out.ctlRespLen = 0 ∧ t.out.ctlRespData = 0x000000) ∧
    t.out.intLen ≠ 1 ∧ t.out.intLen ≠ 2 ∧ t.out.ctlRespLen ≠ 1 ∧ t.out.ctlRespLen ≠ 2

/-- The query decode (43_control_query R89), on the inputs. -/
def Obligations.QueryDecode : Prop :=
  ∀ (p : Params) (i : Inputs),
    (isGet p i = true ↔
      i.ctlValid = true ∧ i.ctlBmrt.extractLsb 6 5 = 0b01#2 ∧ i.ctlBreq = p.reqGetReport) ∧
    handled p i = (isGet p i && !i.rst) ∧
    unhandled p i = (i.ctlValid && !isGet p i && !i.rst)

/-- Reentrancy (43_control_query R93, whose last sentence, formalised here, the spec marks as derived):
with any other query in its place, or none, the cycle leaves the same registers and drives the same on
the interrupt channel. -/
def Obligations.QueryNeverChangesTheState : Prop :=
  ∀ (s : State) (i : Inputs) (rest : List Inputs) (valid : Bool) (bmrt breq : Byte),
    ∃ t u, step { s with pending := i :: rest } = .next t ∧
      step
        { s with
          pending := { i with ctlValid := valid, ctlBmrt := bmrt, ctlBreq := breq } :: rest } =
        .next u ∧
      t.regs = u.regs ∧ t.out.intValid = u.out.intValid ∧ t.out.intData = u.out.intData ∧
      t.out.intLen = u.out.intLen

/-- A TICK and a query in one cycle (70_reset R114, which the spec marks as derived): the answer is the
sample from before the TICK, and a query in the next cycle gets the TICK's sample. -/
def Obligations.SameCycleTickAndQuery : Prop :=
  ∀ s : State, handled s.params s.sampled = true → tickEff s.params s.regs s.sampled = true →
    ∃ t, step s = .next t ∧ t.out.ctlRespLen = 3 ∧
      t.out.ctlRespData = s.regs.rbYQ ++ s.regs.rbXQ ++ 0x00#8 ∧
      (handled t.params t.sampled = true →
        ∃ u, step t = .next u ∧ u.out.ctlRespLen = 3 ∧
          u.out.ctlRespData =
            mapPhase s.params (s.regs.phaseQ + 1 + 64) ++ mapPhase s.params (s.regs.phaseQ + 1)
              ++ 0x00#8)

/-- Queries between the same two TICKs (20_memory, side effects): two handled queries with no TICK and
no reset from the first up to the second return the same bytes. -/
def Obligations.QueriesBetweenTicksAgree : Prop :=
  ∀ (k : Nat) (s : State) (m n : Nat) (c d : Cycle), m ≤ n →
    (history k s)[m]? = some c → (history k s)[n]? = some d →
    c.out.ctlRespLen = 3 → d.out.ctlRespLen = 3 →
    (∀ j, m ≤ j → j < n →
      ¬ TickAt s.params (history k s) j ∧ ¬ ResetAt (history k s) j) →
    c.out.ctlRespData = d.out.ctlRespData

/-! ### The whole machine -/

/-- REPORT24 (30_encoding R49): on both data ports the buttons and the reserved bits are 0, X is in bits
15:8 and Y in bits 23:16. -/
def Obligations.ReportLayoutOnThePorts : Prop :=
  ∀ s : State, ∃ t, step s = .next t ∧
    ∀ d, d = t.out.intData ∨ (t.out.ctlRespLen = 3 ∧ d = t.out.ctlRespData) →
      reportButtonA d = false ∧ reportButtonB d = false ∧ reportButtonC d = false ∧
      reportReserved d = 0 ∧ d.extractLsb 15 8 = s.regs.rbXQ ∧ d.extractLsb 23 16 = s.regs.rbYQ ∧
      (∀ a : Fin 3, reportByte d a = rbByte s.regs a)

/-- Writers per register (44_cycle R95): outside reset only a TICK changes the phase and the buffer,
only the synchroniser its registers, only a TICK raises the flag and only a claim lowers it, and the set
wins; the control operations write no register; RESET overrides every write. -/
def Obligations.WritersPerRegister : Prop :=
  (∀ s : State, ∃ t, step s = .next t ∧
    (s.sampled.rst = false →
      (tickEff s.params s.regs s.sampled = false →
        t.regs.phaseQ = s.regs.phaseQ ∧ t.regs.rbXQ = s.regs.rbXQ ∧ t.regs.rbYQ = s.regs.rbYQ) ∧
      (s.regs.flagQ = false → t.regs.flagQ = true →
        tickEff s.params s.regs s.sampled = true) ∧
      (s.regs.flagQ = true → t.regs.flagQ = false → xfer s.regs s.sampled = true) ∧
      (tickEff s.params s.regs s.sampled = true → t.regs.flagQ = true) ∧
      t.regs.syncQ = (shiftSync s.params s.regs s.sampled).syncQ ∧
      t.regs.edgeQ = (shiftSync s.params s.regs s.sampled).edgeQ) ∧
    (s.sampled.rst = true → t.regs = Regs.atReset s.params)) ∧
  (∀ s t : State, exec .tick s = .next t →
    t.nxt.syncQ = s.nxt.syncQ ∧ t.nxt.edgeQ = s.nxt.edgeQ) ∧
  (∀ s t : State, exec .trySend s = .next t → t.nxt = { s.nxt with flagQ := t.nxt.flagQ }) ∧
  (∀ (s t : State) (bmrt breq : Byte),
    exec (.getReport bmrt breq) s = .next t ∨ exec (.ctlUnhandled bmrt breq) s = .next t →
    t.nxt = s.nxt)
end

