-- ==== Sys2Proof/Laws/State.lean ====
section
/-! SUPPORT. The small lemmas of the record updates: one per field per update, each true by rfl. -/

namespace Sys2Proof.Machine

section
variable (s : State) (r d : Regs) (p : Params) (i : Inputs) (o : Outputs) (v : BitVec 16) (b : Byte)

/-! ### `memWrite` (R28) -/

@[simp] theorem memWrite_phaseQ : (memWrite r v).phaseQ = r.phaseQ := rfl
@[simp] theorem memWrite_flagQ : (memWrite r v).flagQ = r.flagQ := rfl
@[simp] theorem memWrite_rbXQ : (memWrite r v).rbXQ = v.extractLsb' 0 8 := rfl
@[simp] theorem memWrite_rbYQ : (memWrite r v).rbYQ = v.extractLsb' 8 8 := rfl
@[simp] theorem memWrite_syncQ : (memWrite r v).syncQ = r.syncQ := rfl
@[simp] theorem memWrite_edgeQ : (memWrite r v).edgeQ = r.edgeQ := rfl

/-! ### `tickWrites` (R76) -/

@[simp] theorem tickWrites_phaseQ : (tickWrites p r d).phaseQ = sampledPhase r := rfl
@[simp] theorem tickWrites_flagQ : (tickWrites p r d).flagQ = true := rfl
@[simp] theorem tickWrites_syncQ : (tickWrites p r d).syncQ = d.syncQ := rfl
@[simp] theorem tickWrites_edgeQ : (tickWrites p r d).edgeQ = d.edgeQ := rfl

/-! ### `loadReset` (R109) -/

@[simp] theorem loadReset_phaseQ : (loadReset p).phaseQ = 0x00 := rfl
@[simp] theorem loadReset_flagQ : (loadReset p).flagQ = false := rfl
@[simp] theorem loadReset_rbXQ : (loadReset p).rbXQ = p.initX.toByte := rfl
@[simp] theorem loadReset_rbYQ : (loadReset p).rbYQ = p.initY.toByte := rfl
@[simp] theorem loadReset_syncQ :
    (loadReset p).syncQ = List.replicate p.tickSync.stages false := rfl
@[simp] theorem loadReset_edgeQ : (loadReset p).edgeQ = false := rfl

/-- RESET loads the registers that `State.reset` holds for the same parameters. -/
theorem loadReset_eq_atReset : loadReset p = Regs.atReset p := rfl

/-! ### `driveInt`, `driveCtl` (R81, R82, R90 to R92) -/

@[simp] theorem driveInt_intValid : (driveInt r i o).intValid = offered r i := rfl
@[simp] theorem driveInt_intData : (driveInt r i o).intData = memRead r := rfl
@[simp] theorem driveInt_intLen : (driveInt r i o).intLen = 3 := rfl
@[simp] theorem driveInt_ctlRespLen : (driveInt r i o).ctlRespLen = o.ctlRespLen := rfl
@[simp] theorem driveInt_ctlRespData : (driveInt r i o).ctlRespData = o.ctlRespData := rfl
@[simp] theorem driveCtl_intValid (l : Len) (x : Report) :
    (driveCtl l x o).intValid = o.intValid := rfl
@[simp] theorem driveCtl_intData (l : Len) (x : Report) :
    (driveCtl l x o).intData = o.intData := rfl
@[simp] theorem driveCtl_intLen (l : Len) (x : Report) :
    (driveCtl l x o).intLen = o.intLen := rfl
@[simp] theorem driveCtl_ctlRespLen (l : Len) (x : Report) :
    (driveCtl l x o).ctlRespLen = l := rfl
@[simp] theorem driveCtl_ctlRespData (l : Len) (x : Report) :
    (driveCtl l x o).ctlRespData = x := rfl

/-! ### `driveLane` (R63, R64) -/

@[simp] theorem driveLane_x_laneX : (s.driveLane .x b).laneX = some b := rfl
@[simp] theorem driveLane_x_laneY : (s.driveLane .x b).laneY = s.laneY := rfl
@[simp] theorem driveLane_y_laneX : (s.driveLane .y b).laneX = s.laneX := rfl
@[simp] theorem driveLane_y_laneY : (s.driveLane .y b).laneY = some b := rfl
@[simp] theorem driveLane_regs (l : Lane) : (s.driveLane l b).regs = s.regs := by cases l <;> rfl
@[simp] theorem driveLane_nxt (l : Lane) : (s.driveLane l b).nxt = s.nxt := by cases l <;> rfl
@[simp] theorem driveLane_params (l : Lane) : (s.driveLane l b).params = s.params := by
  cases l <;> rfl
@[simp] theorem driveLane_inp (l : Lane) : (s.driveLane l b).inp = s.inp := by cases l <;> rfl
@[simp] theorem driveLane_out (l : Lane) : (s.driveLane l b).out = s.out := by cases l <;> rfl
@[simp] theorem driveLane_pending (l : Lane) : (s.driveLane l b).pending = s.pending := by
  cases l <;> rfl
@[simp] theorem driveLane_cycle (l : Lane) : (s.driveLane l b).cycle = s.cycle := by
  cases l <;> rfl

/-! ### `openCycle`, `closeCycle` (R12) -/

@[simp] theorem openCycle_regs : s.openCycle.regs = s.regs := rfl
@[simp] theorem openCycle_params : s.openCycle.params = s.params := rfl
@[simp] theorem openCycle_inp : s.openCycle.inp = s.sampled := rfl
@[simp] theorem openCycle_pending : s.openCycle.pending = s.pending.tail := rfl
@[simp] theorem openCycle_cycle : s.openCycle.cycle = s.cycle := rfl
@[simp] theorem openCycle_laneX : s.openCycle.laneX = none := rfl
@[simp] theorem openCycle_laneY : s.openCycle.laneY = none := rfl
@[simp] theorem openCycle_nxt :
    s.openCycle.nxt =
      if s.sampled.rst then s.regs else shiftSync s.params s.regs s.sampled := rfl
@[simp] theorem openCycle_out :
    s.openCycle.out = driveInt s.regs s.sampled (driveCtl 0 0x000000 s.out) := rfl
@[simp] theorem closeCycle_regs : s.closeCycle.regs = s.nxt := rfl
@[simp] theorem closeCycle_nxt : s.closeCycle.nxt = s.nxt := rfl
@[simp] theorem closeCycle_params : s.closeCycle.params = s.params := rfl
@[simp] theorem closeCycle_inp : s.closeCycle.inp = s.inp := rfl
@[simp] theorem closeCycle_out : s.closeCycle.out = s.out := rfl
@[simp] theorem closeCycle_laneX : s.closeCycle.laneX = s.laneX := rfl
@[simp] theorem closeCycle_laneY : s.closeCycle.laneY = s.laneY := rfl
@[simp] theorem closeCycle_pending : s.closeCycle.pending = s.pending := rfl
@[simp] theorem closeCycle_cycle : s.closeCycle.cycle = s.cycle + 1 := rfl

/-! ### `presentDw`, `presentPhase` -/

@[simp] theorem presentDw_params (w : DecodeWord) : (s.presentDw w).params = s.params := rfl
@[simp] theorem presentDw_flagQ (w : DecodeWord) : (s.presentDw w).regs.flagQ = dwFlag w := rfl
@[simp] theorem presentDw_phaseQ (w : DecodeWord) :
    (s.presentDw w).regs.phaseQ = s.regs.phaseQ := rfl
@[simp] theorem presentDw_rbXQ (w : DecodeWord) :
    (s.presentDw w).regs.rbXQ = s.regs.rbXQ := rfl
@[simp] theorem presentDw_rbYQ (w : DecodeWord) :
    (s.presentDw w).regs.rbYQ = s.regs.rbYQ := rfl
@[simp] theorem presentDw_syncQ (w : DecodeWord) :
    (s.presentDw w).regs.syncQ = s.regs.syncQ := rfl
@[simp] theorem presentPhase_params (l : Lane) : (s.presentPhase l b).params = s.params := rfl
@[simp] theorem presentPhase_flagQ (l : Lane) :
    (s.presentPhase l b).regs.flagQ = s.regs.flagQ := rfl
@[simp] theorem presentPhase_syncQ (l : Lane) :
    (s.presentPhase l b).regs.syncQ = s.regs.syncQ := rfl
@[simp] theorem presentDw_sampled (w : DecodeWord) :
    (s.presentDw w).sampled =
      { rst := dwRst w, tick := dwTickEff w, intReady := dwIntReady w,
        ctlValid := dwCtlValid w, ctlBmrt := dwBmrt w, ctlBreq := dwBreq w } := rfl
@[simp] theorem presentPhase_sampled (l : Lane) :
    (s.presentPhase l b).sampled = Inputs.trigger := rfl

end

end Sys2Proof.Machine
end

