-- ==== Sys2Proof/Laws/Bits.lean ====
section
/-! SUPPORT. The bit-level facts: which bits each row of the opcode table tests (30_encoding R53, R55), the
fields of an assembled decode word (R52), neg8 and the halves of a MemWrite value. -/

namespace Sys2Proof

open Sys2Proof.Machine

/-- A word under a mask has a value exactly when every bit agrees. -/
theorem row_hits_bits {n : Nat} (r : Row n) (x : BitVec n) :
    r.hits x = (List.range n).all fun k =>
      (x.getLsbD k && r.mask.getLsbD k) == r.pattern.getLsbD k := by
  rw [Bool.eq_iff_iff, Row.hits, beq_iff_eq, List.all_eq_true]
  constructor
  · intro h k _
    rw [← h, BitVec.getLsbD_and, beq_self_eq_true]
  · intro h
    apply BitVec.eq_of_getLsbD_eq
    intro k hk
    rw [BitVec.getLsbD_and]
    exact eq_of_beq (h k (List.mem_range.2 hk))

theorem range_21 : List.range 21 =
    [0, 1, 2, 3, 4, 5, 6, 7, 8, 9, 10, 11, 12, 13, 14, 15, 16, 17, 18, 19, 20] := rfl

theorem range_8 : List.range 8 = [0, 1, 2, 3, 4, 5, 6, 7] := rfl

theorem rowReset_hits (w : DecodeWord) : rowReset.hits w = dwRst w := by
  simp [row_hits_bits, range_21, rowReset, dwRst]

theorem rowTick_hits (w : DecodeWord) : rowTick.hits w = (!dwRst w && dwTickEff w) := by
  simp [row_hits_bits, range_21, rowTick, dwRst, dwTickEff]

theorem rowTrySend_hits (w : DecodeWord) :
    rowTrySend.hits w = (!dwRst w && dwFlag w && dwIntReady w) := by
  simp [row_hits_bits, range_21, rowTrySend, dwRst, dwFlag, dwIntReady, Bool.and_assoc]

theorem rowCtl_hits (w : DecodeWord) : rowCtl.hits w = (!dwRst w && dwCtlValid w) := by
  simp [row_hits_bits, range_21, rowCtl, dwRst, dwCtlValid]

/-- Two bytes agree exactly when every bit agrees. -/
theorem byte_beq_bits (x y : Byte) :
    (x == y) = (List.range 8).all fun k => x.getLsbD k == y.getLsbD k := by
  rw [Bool.eq_iff_iff, beq_iff_eq, List.all_eq_true]
  constructor
  · rintro rfl k _
    exact beq_self_eq_true _
  · intro h
    apply BitVec.eq_of_getLsbD_eq
    intro k hk
    exact eq_of_beq (h k (List.mem_range.2 hk))

theorem classBits (b : Byte) :
    (b.extractLsb' 5 2 == 0b01#2) = (b.getLsbD 5 && !b.getLsbD 6) := by
  revert b
  decide

theorem rowGetReport_hits (req : Byte) (w : DecodeWord) :
    (rowGetReport req).hits w =
      (!dwRst w && dwCtlValid w && requestIsGetReport req (dwBmrt w) (dwBreq w)) := by
  rw [requestIsGetReport, classBits, byte_beq_bits, row_hits_bits]
  simp [range_21, range_8, rowGetReport, dwRst, dwCtlValid, dwBmrt, dwBreq]
  grind

/-! ### The fields of an assembled decode word (R52) -/

/-- Each bit of an assembled decode word (R52). -/
theorem assembleDw_bit (i : Inputs) (f t : Bool) (k : Nat) :
    (assembleDw i f t).getLsbD k =
      if k = 0 then i.rst else if k = 1 then t else if k = 2 then f else if k = 3 then i.intReady
      else if k = 4 then i.ctlValid else if k < 13 then i.ctlBmrt.getLsbD (k - 5)
      else i.ctlBreq.getLsbD (k - 13) := by
  have h : (assembleDw i f t).getLsbD k =
      BitVec.getLsbD (w := 8 + 8 + 1 + 1 + 1 + 1 + 1)
        (i.ctlBreq ++ i.ctlBmrt ++ BitVec.ofBool i.ctlValid ++ BitVec.ofBool i.intReady
          ++ BitVec.ofBool f ++ BitVec.ofBool t ++ BitVec.ofBool i.rst) k := rfl
  rw [h]
  simp only [BitVec.getLsbD_append, BitVec.getLsbD_ofBool]
  rcases k with _ | _ | _ | _ | _ | k <;> simp
  have e : k + 1 + 1 + 1 + 1 + 1 < 13 ↔ k < 8 := by omega
  simp [e]

section
variable (i : Inputs) (f t : Bool)

@[simp] theorem dwRst_assembleDw : dwRst (assembleDw i f t) = i.rst := by
  rw [dwRst, assembleDw_bit, if_pos rfl]

@[simp] theorem dwTickEff_assembleDw : dwTickEff (assembleDw i f t) = t := by
  rw [dwTickEff, assembleDw_bit]; rfl

@[simp] theorem dwFlag_assembleDw : dwFlag (assembleDw i f t) = f := by
  rw [dwFlag, assembleDw_bit]; rfl

@[simp] theorem dwIntReady_assembleDw : dwIntReady (assembleDw i f t) = i.intReady := by
  rw [dwIntReady, assembleDw_bit]; rfl

@[simp] theorem dwCtlValid_assembleDw : dwCtlValid (assembleDw i f t) = i.ctlValid := by
  rw [dwCtlValid, assembleDw_bit]; rfl

@[simp] theorem dwBmrt_assembleDw : dwBmrt (assembleDw i f t) = i.ctlBmrt := by
  apply BitVec.eq_of_getLsbD_eq
  intro k hk
  rw [dwBmrt, BitVec.getLsbD_extractLsb', assembleDw_bit]
  have e : ∀ n < 5, 5 + k ≠ n := by omega
  simp [hk, e, show 5 + k < 13 by omega]

@[simp] theorem dwBreq_assembleDw : dwBreq (assembleDw i f t) = i.ctlBreq := by
  apply BitVec.eq_of_getLsbD_eq
  intro k hk
  rw [dwBreq, BitVec.getLsbD_extractLsb', assembleDw_bit]
  have e : ∀ n < 13, 13 + k ≠ n := by omega
  simp [hk, e]

end

/-- A decode word is the assembly of its fields. -/
theorem assembleDw_fields (w : DecodeWord) :
    assembleDw
      { rst := dwRst w, tick := dwTickEff w, intReady := dwIntReady w,
        ctlValid := dwCtlValid w, ctlBmrt := dwBmrt w, ctlBreq := dwBreq w }
      (dwFlag w) (dwTickEff w) = w := by
  apply BitVec.eq_of_getLsbD_eq
  intro k hk
  rw [assembleDw_bit]
  interval_cases k <;> simp [dwRst, dwTickEff, dwFlag, dwIntReady, dwCtlValid, dwBmrt, dwBreq]

/-! ### Request bytes -/

/-- The operand check of WellFormed is the query decode of the machine (R51, R89). -/
theorem requestIsGetReport_eq (p : Params) (bmrt breq : Byte) :
    requestIsGetReport p.reqGetReport bmrt breq = isGetReport p bmrt breq := by
  have h : (bmrt.extractLsb' 5 2 == 0b01#2) = (requestType bmrt == .cls) := by
    revert bmrt
    decide
  rw [requestIsGetReport, isGetReport, h]

/-! ### Bytes -/

/-- `neg8` is two's-complement negation (R10). -/
theorem neg8_eq (v : Byte) : neg8 v = -v := by
  revert v
  decide

/-- The low byte of a MemWrite value goes to address 1 (R28). -/
@[simp] theorem append_low (y x : Byte) : (y ++ x).extractLsb' 0 8 = x := by
  apply BitVec.eq_of_getLsbD_eq
  intro k hk
  rw [BitVec.getLsbD_extractLsb', BitVec.getLsbD_append]
  simp [hk]

/-- The high byte of a MemWrite value goes to address 2 (R28). -/
@[simp] theorem append_high (y x : Byte) : (y ++ x).extractLsb' 8 8 = y := by
  apply BitVec.eq_of_getLsbD_eq
  intro k hk
  rw [BitVec.getLsbD_extractLsb', BitVec.getLsbD_append]
  simp [hk]

/-- `MemRead(0, 3)` as the spec writes it (R82). -/
theorem memRead_eq (r : Regs) : memRead r = r.rbYQ ++ r.rbXQ ++ 0x00#8 := rfl

@[simp] theorem tickWrites_rbXQ (p : Params) (r d : Regs) :
    (tickWrites p r d).rbXQ = mapPhase p (sampledPhase r) :=
  append_low _ _

@[simp] theorem tickWrites_rbYQ (p : Params) (r d : Regs) :
    (tickWrites p r d).rbYQ = mapPhase p (yPhase (sampledPhase r)) :=
  append_high _ _

/-- One TICK's writes, field by field (R76). -/
theorem tickWrites_eq (p : Params) (r d : Regs) :
    tickWrites p r d =
      { phaseQ := sampledPhase r
        flagQ := true
        rbXQ := mapPhase p (sampledPhase r)
        rbYQ := mapPhase p (yPhase (sampledPhase r))
        syncQ := d.syncQ
        edgeQ := d.edgeQ } := by
  rw [← tickWrites_rbXQ p r d, ← tickWrites_rbYQ p r d]
  rfl

end Sys2Proof
end

