-- ==== Sys2Proof/Laws/Decode.lean ====
section
/-! SUPPORT. What each decoder answers, once, by the fields of its word (30_encoding R53 to R55). -/

namespace Sys2Proof

open Sys2Proof.Machine

/-- The control responder's operation by the word's fields (R53). -/
theorem decodeCtl_fields (req : Byte) (w : DecodeWord) :
    decodeCtl req w =
      if !dwRst w && dwCtlValid w then
        (if requestIsGetReport req (dwBmrt w) (dwBreq w) then
          [.getReport (dwBmrt w) (dwBreq w)]
        else [.ctlUnhandled (dwBmrt w) (dwBreq w)])
      else [] := by
  rw [decodeCtl, rowGetReport_hits, rowCtl_hits]
  cases dwRst w <;> cases dwCtlValid w <;> simp

/-- Every operation a decode word selects, by the word's fields (R53). -/
theorem decodeDw_fields (req : Byte) (w : DecodeWord) :
    decodeDw req w =
      if dwRst w then [.reset]
      else
        (if dwTickEff w then [.tick] else [])
          ++ (if dwFlag w && dwIntReady w then [.trySend] else [])
          ++ (if dwCtlValid w then
                (if requestIsGetReport req (dwBmrt w) (dwBreq w) then
                  [.getReport (dwBmrt w) (dwBreq w)]
                else [.ctlUnhandled (dwBmrt w) (dwBreq w)])
              else []) := by
  rw [decodeDw, decodeCtl_fields, rowReset_hits, rowTick_hits, rowTrySend_hits]
  cases dwRst w <;> simp

/-- A phase value's arm by its quadrant (R55). -/
theorem decodePhase_quadrant (lane : Lane) (p : Byte) :
    decodePhase lane p =
      if phaseSign p then
        (if phaseMirror p then .mapQ3 lane (phaseIdx p) else .mapQ2 lane (phaseIdx p))
      else (if phaseMirror p then .mapQ1 lane (phaseIdx p) else .mapQ0 lane (phaseIdx p)) := by
  have h0 : rowMapQ0.hits p = (!phaseSign p && !phaseMirror p) := by revert p; decide
  have h1 : rowMapQ1.hits p = (!phaseSign p && phaseMirror p) := by revert p; decide
  have h2 : rowMapQ2.hits p = (phaseSign p && !phaseMirror p) := by revert p; decide
  rw [decodePhase, h0, h1, h2]
  cases phaseSign p <;> cases phaseMirror p <;> rfl

/-- The operations of a cycle, by S_n and I_n (R53 to R55). -/
theorem operations_eq (s : State) :
    s.operations =
      if s.inp.rst then [.reset]
      else
        (if tickEff s.params s.regs s.inp then
          [decodePhase .x (sampledPhase s.regs), decodePhase .y (yPhase (sampledPhase s.regs)),
            .tick]
        else [])
          ++ (if s.regs.flagQ && s.inp.intReady then [.trySend] else [])
          ++ (if s.inp.ctlValid then
                (if isGetReport s.params s.inp.ctlBmrt s.inp.ctlBreq then
                  [.getReport s.inp.ctlBmrt s.inp.ctlBreq]
                else [.ctlUnhandled s.inp.ctlBmrt s.inp.ctlBreq])
              else []) := by
  rw [State.operations, State.mapperOps, decode, decodeDw_fields, State.decodeWord, tickOp]
  simp only [dwRst_assembleDw, dwTickEff_assembleDw, dwFlag_assembleDw, dwIntReady_assembleDw,
    dwCtlValid_assembleDw, dwBmrt_assembleDw, dwBreq_assembleDw, requestIsGetReport_eq]
  cases s.inp.rst <;> cases tickEff s.params s.regs s.inp <;> simp

end Sys2Proof
end

