-- ==== Sys2Proof/Laws/Ops.lean ====
section
/-! SUPPORT. One lemma per shared operation and per meaning that says once what it answers; proofs cite these
instead of unfolding. -/

namespace Sys2Proof.Machine

/-! ### The mapper -/

/-- A TICK's arm in a lane returns MAP of the lane's phase (40_mapper R61, R65 to R68; 30_encoding R55). -/
theorem exec_decodePhase (lane : Lane) (ph : Byte) (s : State) :
    exec (decodePhase lane ph) s = .next (s.driveLane lane (mapPhase s.params ph)) := by
  rw [decodePhase_quadrant, mapPhase, foldedIdx]
  cases phaseSign ph <;> cases phaseMirror ph <;> rfl

/-- The folded index is the mirrored index exactly under the mirror selector (30_encoding R46). -/
theorem foldedIdx_toNat (p : Byte) :
    (foldedIdx p).toNat = if phaseMirror p then 63 - p.toNat % 64 else p.toNat % 64 := by
  revert p
  decide

/-- A table read is an entry of the table (R29). -/
theorem qwtRead_eq (p : Params) (j : Idx) : qwtRead p j = p.qwt[j.toNat] := rfl

/-! ### The clock -/

/-- In pulse mode nothing shifts (41_generator R72). -/
theorem shiftSync_pulse {p : Params} (h : p.tickSync = .pulse) (r : Regs) (i : Inputs) :
    shiftSync p r i = r := by
  rw [shiftSync, h]

/-- In toggle mode the chain shifts and the edge register follows its last stage (41_generator R73). -/
theorem shiftSync_toggle {p : Params} {e : Nat} (h : p.tickSync = .toggle e) (r : Regs) (i : Inputs) :
    shiftSync p r i =
      { r with syncQ := (i.tick :: r.syncQ).take (e + 2), edgeQ := lastStage p r } := by
  rw [shiftSync, h, TickSync.stages]

section
variable (p : Params) (r : Regs) (i : Inputs)

@[simp] theorem shiftSync_phaseQ : (shiftSync p r i).phaseQ = r.phaseQ := by
  rw [shiftSync]; cases p.tickSync <;> rfl

@[simp] theorem shiftSync_flagQ : (shiftSync p r i).flagQ = r.flagQ := by
  rw [shiftSync]; cases p.tickSync <;> rfl

@[simp] theorem shiftSync_rbXQ : (shiftSync p r i).rbXQ = r.rbXQ := by
  rw [shiftSync]; cases p.tickSync <;> rfl

@[simp] theorem shiftSync_rbYQ : (shiftSync p r i).rbYQ = r.rbYQ := by
  rw [shiftSync]; cases p.tickSync <;> rfl

end

/-- A shift keeps the synchroniser's shape (10_state R16, R21). -/
theorem shiftSync_shape {p : Params} {r : Regs} (h : SyncShape p r) (i : Inputs) :
    SyncShape p (shiftSync p r i) := by
  obtain ⟨hl, he⟩ := h
  cases ht : p.tickSync with
  | pulse => rw [shiftSync_pulse ht]; exact ⟨hl, he⟩
  | toggle e =>
    rw [ht, TickSync.stages] at hl
    rw [shiftSync_toggle ht]
    refine ⟨?_, fun h => by simp [ht] at h⟩
    simp [ht, TickSync.stages, hl]

/-- Reset gives the synchroniser its shape (70_reset R109). -/
theorem loadReset_shape (p : Params) : SyncShape p (loadReset p) :=
  ⟨List.length_replicate .., fun _ => rfl⟩

/-! ### The effect of an operation, as a total function -/

/-- The state an operation leaves. -/
def effect : Instr → State → State
  | .reset, s =>
    { s with
      nxt := loadReset s.params
      out :=
        { intValid := false, intData := memRead s.regs, intLen := 3, ctlRespLen := 0,
          ctlRespData := 0x000000 } }
  | .tick, s => { s with nxt := tickWrites s.params s.regs s.nxt }
  | .trySend, s =>
    if xfer s.regs s.inp then
      { s with
        out := driveInt s.regs s.inp s.out
        nxt :=
          { s.nxt with flagQ := claimFlag (tickOp s.params s.regs s.inp) s.nxt.flagQ } }
    else s
  | .getReport bmrt breq, s =>
    if isGetReport s.params bmrt breq && !s.inp.rst then
      { s with out := driveCtl 3 (memRead s.regs) s.out }
    else s
  | .ctlUnhandled bmrt breq, s =>
    if !isGetReport s.params bmrt breq && !s.inp.rst then
      { s with out := driveCtl 0 0x000000 s.out }
    else s
  | .mapQ0 lane idx, s => s.driveLane lane (armQ0 s.params idx)
  | .mapQ1 lane idx, s => s.driveLane lane (armQ1 s.params idx)
  | .mapQ2 lane idx, s => s.driveLane lane (armQ2 s.params idx)
  | .mapQ3 lane idx, s => s.driveLane lane (armQ3 s.params idx)

/-- Every operation answers a next state, its effect (60_exceptions R99). -/
theorem exec_effect (i : Instr) (s : State) : exec i s = .next (effect i s) := by
  cases i <;>
    simp only [exec, effect, execReset, execTick, execTrySend, execGetReport, execCtlUnhandled,
      execMapQ0, execMapQ1, execMapQ2, execMapQ3] <;>
    split <;> rfl

section
variable (i : Instr) (s : State)

/-- No operation writes the registers directly: the closing edge does (R12). -/
@[simp] theorem effect_regs : (effect i s).regs = s.regs := by
  cases i <;> simp only [effect, driveLane_regs] <;> split <;> rfl

@[simp] theorem effect_inp : (effect i s).inp = s.inp := by
  cases i <;> simp only [effect, driveLane_inp] <;> split <;> rfl

/-- No operation changes the parameters (10_state R23). -/
@[simp] theorem effect_params : (effect i s).params = s.params := by
  cases i <;> simp only [effect, driveLane_params] <;> split <;> rfl

end

/-! ### Running operations -/

@[simp] theorem runOps_nil (s : State) : runOps [] s = .next s := rfl

/-- Running an operation that answers a next state, then the rest. -/
theorem runOps_cons {i : Instr} {s t : State} (h : exec i s = .next t) (rest : List Instr) :
    runOps (i :: rest) s = runOps rest t := by
  rw [runOps, h]

/-- Running operations answers a next state: their effects in turn. -/
theorem runOps_effect (l : List Instr) (s : State) :
    runOps l s = .next (l.foldl (fun u i => effect i u) s) := by
  induction l generalizing s with
  | nil => rfl
  | cons i rest ih => rw [runOps_cons (exec_effect i s), ih]; rfl

/-- Running two lists one after the other. -/
theorem runOps_append {a : List Instr} {s t : State} (h : runOps a s = .next t) (b : List Instr) :
    runOps (a ++ b) s = runOps b t := by
  induction a generalizing s with
  | nil => cases h; rfl
  | cons i rest ih =>
    rw [List.cons_append]
    cases he : exec i s with
    | next u => rw [runOps_cons he] at h ⊢; exact ih h
    | fault r => cases r
    | refused r => rw [runOps, he] at h; cases h

end Sys2Proof.Machine
end

