-- ==== Sys2Proof/Laws/PerInstr.lean ====
section
/-! SUPPORT. The family EncodeHitsRow, one lemma per constructor of Instr: the encoding of a well-formed operation has its
own row's fixed bits (30_encoding R53, R55), and a decode word's encoding hits no other row but the one that
R53 excludes by name. -/

namespace Sys2Proof.Laws

/-- The rows of the decode word that a word hits, in the table's order: RESET, TICK, TRY_SEND, GET_REPORT,
CTL_UNHANDLED (the last without R53's exclusion of GET_REPORT). -/
def dwHits (req : Byte) (w : DecodeWord) : List Bool :=
  [rowReset.hits w, rowTick.hits w, rowTrySend.hits w, (rowGetReport req).hits w, rowCtl.hits w]

/-- The rows of the phase word that a phase value hits: MAP_Q0, MAP_Q1, MAP_Q2. A value that hits none of
them is MAP_Q3's (R55). -/
def phaseHits (p : Byte) : List Bool := [rowMapQ0.hits p, rowMapQ1.hits p, rowMapQ2.hits p]

/-- The encoding of an operation hits exactly the rows that select it. -/
def EncodeHitsRow.Statement (i : Instr) : Prop :=
  ∀ req : Byte, i.wf req = true →
    match i, encode i with
    | .reset, .dw w => dwHits req w = [true, false, false, false, false]
    | .tick, .dw w => dwHits req w = [false, true, false, false, false]
    | .trySend, .dw w => dwHits req w = [false, false, true, false, false]
    | .getReport _ _, .dw w => dwHits req w = [false, false, false, true, true]
    | .ctlUnhandled _ _, .dw w => dwHits req w = [false, false, false, false, true]
    | .mapQ0 _ _, .phase _ p => phaseHits p = [true, false, false]
    | .mapQ1 _ _, .phase _ p => phaseHits p = [false, true, false]
    | .mapQ2 _ _, .phase _ p => phaseHits p = [false, false, true]
    | .mapQ3 _ _, .phase _ p => phaseHits p = [false, false, false]
    | _, _ => False

/-- The rows by the word's fields. -/
theorem dwHits_fields (req : Byte) (w : DecodeWord) :
    dwHits req w =
      [dwRst w, !dwRst w && dwTickEff w, !dwRst w && dwFlag w && dwIntReady w,
        !dwRst w && dwCtlValid w && requestIsGetReport req (dwBmrt w) (dwBreq w),
        !dwRst w && dwCtlValid w] := by
  rw [dwHits, rowReset_hits, rowTick_hits, rowTrySend_hits, rowGetReport_hits, rowCtl_hits]

/-- A control request's word is the word of a cycle with that request and nothing else (R52). -/
theorem encodeCtl_eq (bmrt breq : Byte) :
    encodeCtl bmrt breq =
      assembleDw
        { rst := false, tick := false, intReady := false, ctlValid := true, ctlBmrt := bmrt,
          ctlBreq := breq } false false := by
  apply BitVec.eq_of_getLsbD_eq
  intro k hk
  have h : (encodeCtl bmrt breq).getLsbD k =
      BitVec.getLsbD (w := 8 + 8 + 5) (breq ++ bmrt ++ 0b10000#5) k := rfl
  rw [assembleDw_bit, h, BitVec.getLsbD_append, BitVec.getLsbD_append]
  interval_cases k <;> simp

theorem EncodeHitsRow.reset : EncodeHitsRow.Statement .reset := by
  intro req _
  show dwHits req 0x000001#21 = _
  rw [dwHits_fields]
  rfl

theorem EncodeHitsRow.tick : EncodeHitsRow.Statement .tick := by
  intro req _
  show dwHits req 0x000002#21 = _
  rw [dwHits_fields]
  rfl

theorem EncodeHitsRow.trySend : EncodeHitsRow.Statement .trySend := by
  intro req _
  show dwHits req 0x00000C#21 = _
  rw [dwHits_fields]
  rfl

theorem EncodeHitsRow.getReport (bmrt breq : Byte) :
    EncodeHitsRow.Statement (.getReport bmrt breq) := by
  intro req h
  rw [Instr.wf] at h
  show dwHits req (encodeCtl bmrt breq) = _
  rw [encodeCtl_eq, dwHits_fields]
  simp [h]

theorem EncodeHitsRow.ctlUnhandled (bmrt breq : Byte) :
    EncodeHitsRow.Statement (.ctlUnhandled bmrt breq) := by
  intro req h
  rw [Instr.wf, Bool.not_eq_true'] at h
  show dwHits req (encodeCtl bmrt breq) = _
  rw [encodeCtl_eq, dwHits_fields]
  simp [h]

theorem EncodeHitsRow.mapQ0 (lane : Lane) (idx : Idx) :
    EncodeHitsRow.Statement (.mapQ0 lane idx) := by
  intro _ h
  clear h
  show phaseHits (encodePhase 0b00#2 idx) = _
  revert idx
  decide

theorem EncodeHitsRow.mapQ1 (lane : Lane) (idx : Idx) :
    EncodeHitsRow.Statement (.mapQ1 lane idx) := by
  intro _ h
  clear h
  show phaseHits (encodePhase 0b01#2 idx) = _
  revert idx
  decide

theorem EncodeHitsRow.mapQ2 (lane : Lane) (idx : Idx) :
    EncodeHitsRow.Statement (.mapQ2 lane idx) := by
  intro _ h
  clear h
  show phaseHits (encodePhase 0b10#2 idx) = _
  revert idx
  decide

theorem EncodeHitsRow.mapQ3 (lane : Lane) (idx : Idx) :
    EncodeHitsRow.Statement (.mapQ3 lane idx) := by
  intro _ h
  clear h
  show phaseHits (encodePhase 0b11#2 idx) = _
  revert idx
  decide

end Sys2Proof.Laws
end

