-- ==== Sys2Proof/Laws/Step.lean ====
section
/-! SUPPORT. What one step can do, said once: the state it answers, as a function of the registers at the start of
the cycle and the cycle's inputs (44_cycle R94). -/

namespace Sys2Proof.Machine

/-- The registers after a cycle. -/
def stepRegs (p : Params) (r : Regs) (i : Inputs) : Regs :=
  if i.rst then loadReset p
  else
    { phaseQ := if tickEff p r i then sampledPhase r else r.phaseQ
      flagQ := tickEff p r i || (r.flagQ && !i.intReady)
      rbXQ := if tickEff p r i then mapPhase p (sampledPhase r) else r.rbXQ
      rbYQ := if tickEff p r i then mapPhase p (yPhase (sampledPhase r)) else r.rbYQ
      syncQ := (shiftSync p r i).syncQ
      edgeQ := (shiftSync p r i).edgeQ }

/-- What a lane returned in a cycle. -/
def stepLane (p : Params) (r : Regs) (i : Inputs) (ph : Byte) : Option Byte :=
  if tickOp p r i then some (mapPhase p ph) else none

/-- The state after a cycle. -/
def stepState (s : State) : State :=
  { regs := stepRegs s.params s.regs s.sampled
    nxt := stepRegs s.params s.regs s.sampled
    params := s.params
    inp := s.sampled
    out := cycleOutputs s.params s.regs s.sampled
    laneX := stepLane s.params s.regs s.sampled (sampledPhase s.regs)
    laneY := stepLane s.params s.regs s.sampled (yPhase (sampledPhase s.regs))
    pending := s.pending.tail
    cycle := s.cycle + 1 }

/-- The query decode of R94 is that of R89. -/
theorem isGet_eq (p : Params) (i : Inputs) :
    isGet p i =
      (i.ctlValid && (i.ctlBmrt.extractLsb' 5 2 == 0b01#2) && (i.ctlBreq == p.reqGetReport)) := by
  rw [isGet, ← requestIsGetReport_eq, requestIsGetReport, Bool.and_assoc]

/-- The outputs of a cycle by the query decode (R81, R82, R90 to R92). -/
theorem cycleOutputs_eq (p : Params) (r : Regs) (i : Inputs) :
    cycleOutputs p r i =
      { intValid := offered r i
        intData := memRead r
        intLen := 3
        ctlRespLen := if handled p i then 3 else 0
        ctlRespData := if handled p i then memRead r else 0x000000 } := by
  rw [cycleOutputs, handled, isGet_eq, Bool.and_comm (!i.rst)]
  rfl

/-! ### The effect of each agent's part of a cycle -/

/-- The Generator's part (R76, R55). -/
def tickEffect (s : State) : State :=
  if tickEff s.params s.regs s.inp then
    { s with
      laneX := some (mapPhase s.params (sampledPhase s.regs))
      laneY := some (mapPhase s.params (yPhase (sampledPhase s.regs)))
      nxt := tickWrites s.params s.regs s.nxt }
  else s

/-- The Dispatcher's part (R84, R85). -/
def sendEffect (s : State) : State :=
  if s.regs.flagQ && s.inp.intReady then
    { s with
      out := driveInt s.regs s.inp s.out
      nxt := { s.nxt with flagQ := claimFlag (tickEff s.params s.regs s.inp) s.nxt.flagQ } }
  else s

/-- The Control responder's part (R90, R91). -/
def ctlEffect (s : State) : State :=
  if s.inp.ctlValid then
    { s with
      out :=
        if isGetReport s.params s.inp.ctlBmrt s.inp.ctlBreq then driveCtl 3 (memRead s.regs) s.out
        else driveCtl 0 0x000000 s.out }
  else s

theorem run_tickOps (s : State) :
    runOps
        (if tickEff s.params s.regs s.inp then
          [decodePhase .x (sampledPhase s.regs), decodePhase .y (yPhase (sampledPhase s.regs)),
            .tick]
        else []) s = .next (tickEffect s) := by
  rw [tickEffect]
  split
  · rw [runOps_cons (exec_decodePhase ..), runOps_cons (exec_decodePhase ..)]
    rfl
  · rfl

theorem run_sendOps {s : State} (hr : s.inp.rst = false) :
    runOps (if s.regs.flagQ && s.inp.intReady then [.trySend] else []) s =
      .next (sendEffect s) := by
  rw [sendEffect]
  split
  · next h =>
    have hx : xfer s.regs s.inp = true := by
      rw [xfer, offered, hr, Bool.not_false, Bool.and_true]; exact h
    have ht : tickOp s.params s.regs s.inp = tickEff s.params s.regs s.inp := by
      rw [tickOp, hr, Bool.not_false, Bool.true_and]
    simp [runOps, exec, execTrySend, hx, ht]
  · rfl

theorem run_ctlOps {s : State} (hr : s.inp.rst = false) :
    runOps
        (if s.inp.ctlValid then
          (if isGetReport s.params s.inp.ctlBmrt s.inp.ctlBreq then
            [.getReport s.inp.ctlBmrt s.inp.ctlBreq]
          else [.ctlUnhandled s.inp.ctlBmrt s.inp.ctlBreq])
        else []) s = .next (ctlEffect s) := by
  rw [ctlEffect]
  split
  · split <;> next h => simp [runOps, exec, execGetReport, execCtlUnhandled, h, hr]
  · rfl

section
variable (s : State)

@[simp] theorem tickEffect_regs : (tickEffect s).regs = s.regs := by
  rw [tickEffect]; split <;> rfl
@[simp] theorem tickEffect_params : (tickEffect s).params = s.params := by
  rw [tickEffect]; split <;> rfl
@[simp] theorem tickEffect_inp : (tickEffect s).inp = s.inp := by
  rw [tickEffect]; split <;> rfl
@[simp] theorem tickEffect_pending : (tickEffect s).pending = s.pending := by
  rw [tickEffect]; split <;> rfl
@[simp] theorem tickEffect_cycle : (tickEffect s).cycle = s.cycle := by
  rw [tickEffect]; split <;> rfl
@[simp] theorem tickEffect_out : (tickEffect s).out = s.out := by
  rw [tickEffect]; split <;> rfl
@[simp] theorem sendEffect_regs : (sendEffect s).regs = s.regs := by
  rw [sendEffect]; split <;> rfl
@[simp] theorem sendEffect_params : (sendEffect s).params = s.params := by
  rw [sendEffect]; split <;> rfl
@[simp] theorem sendEffect_inp : (sendEffect s).inp = s.inp := by
  rw [sendEffect]; split <;> rfl
@[simp] theorem sendEffect_pending : (sendEffect s).pending = s.pending := by
  rw [sendEffect]; split <;> rfl
@[simp] theorem sendEffect_cycle : (sendEffect s).cycle = s.cycle := by
  rw [sendEffect]; split <;> rfl
@[simp] theorem sendEffect_laneX : (sendEffect s).laneX = s.laneX := by
  rw [sendEffect]; split <;> rfl
@[simp] theorem sendEffect_laneY : (sendEffect s).laneY = s.laneY := by
  rw [sendEffect]; split <;> rfl
@[simp] theorem ctlEffect_regs : (ctlEffect s).regs = s.regs := by
  rw [ctlEffect]; split <;> rfl
@[simp] theorem ctlEffect_params : (ctlEffect s).params = s.params := by
  rw [ctlEffect]; split <;> rfl
@[simp] theorem ctlEffect_inp : (ctlEffect s).inp = s.inp := by
  rw [ctlEffect]; split <;> rfl
@[simp] theorem ctlEffect_pending : (ctlEffect s).pending = s.pending := by
  rw [ctlEffect]; split <;> rfl
@[simp] theorem ctlEffect_cycle : (ctlEffect s).cycle = s.cycle := by
  rw [ctlEffect]; split <;> rfl
@[simp] theorem ctlEffect_nxt : (ctlEffect s).nxt = s.nxt := by
  rw [ctlEffect]; split <;> rfl
@[simp] theorem ctlEffect_laneX : (ctlEffect s).laneX = s.laneX := by
  rw [ctlEffect]; split <;> rfl
@[simp] theorem ctlEffect_laneY : (ctlEffect s).laneY = s.laneY := by
  rw [ctlEffect]; split <;> rfl

@[simp] theorem tickEffect_laneX :
    (tickEffect s).laneX =
      if tickEff s.params s.regs s.inp then some (mapPhase s.params (sampledPhase s.regs))
      else s.laneX := by
  rw [tickEffect]; split <;> rfl

@[simp] theorem tickEffect_laneY :
    (tickEffect s).laneY =
      if tickEff s.params s.regs s.inp then some (mapPhase s.params (yPhase (sampledPhase s.regs)))
      else s.laneY := by
  rw [tickEffect]; split <;> rfl

/-- What a cycle outside reset leaves on the D inputs (R76, R84, R85). -/
theorem sendEffect_tickEffect_nxt (h : s.nxt.flagQ = s.regs.flagQ) :
    (sendEffect (tickEffect s)).nxt =
      { (if tickEff s.params s.regs s.inp then tickWrites s.params s.regs s.nxt else s.nxt) with
        flagQ := tickEff s.params s.regs s.inp || (s.regs.flagQ && !s.inp.intReady) } := by
  rcases Bool.eq_false_or_eq_true (tickEff s.params s.regs s.inp) with ht | ht <;>
    rcases Bool.eq_false_or_eq_true s.regs.flagQ with hf | hf <;>
    rcases Bool.eq_false_or_eq_true s.inp.intReady with hi | hi <;>
    simp [sendEffect, tickEffect, claimFlag, ht, hf, hi] <;> ext <;> simp [h, hf]

/-- What a cycle outside reset drives (R81, R82, R90 to R92), from outputs that carry the offer and no
answer. -/
theorem ctlEffect_sendEffect_out {s : State} {o : Outputs}
    (h : s.out = driveInt s.regs s.inp (driveCtl 0 0x000000 o)) :
    (ctlEffect (sendEffect s)).out =
      driveInt s.regs s.inp
        (if isGet s.params s.inp then driveCtl 3 (memRead s.regs) o else driveCtl 0 0x000000 o) := by
  have hs : (sendEffect s).out = s.out := by
    rw [sendEffect]; split
    · show driveInt s.regs s.inp s.out = s.out
      rw [h]; rfl
    · rfl
  rcases Bool.eq_false_or_eq_true s.inp.ctlValid with hc | hc <;>
    rcases Bool.eq_false_or_eq_true (isGetReport s.params s.inp.ctlBmrt s.inp.ctlBreq) with hg | hg <;>
    simp [ctlEffect, isGet, hc, hg, hs, h] <;> rfl

end

/-- The operations of a cycle outside reset do the parts of the three agents (R96). -/
theorem run_operations {s : State} (hr : s.inp.rst = false) :
    runOps s.operations s = .next (ctlEffect (sendEffect (tickEffect s))) := by
  have hs := run_sendOps (s := tickEffect s) (by rw [tickEffect_inp, hr])
  have hc := run_ctlOps (s := sendEffect (tickEffect s)) (by rw [sendEffect_inp, tickEffect_inp, hr])
  simp only [tickEffect_regs, tickEffect_inp, tickEffect_params, sendEffect_inp,
    sendEffect_params] at hs hc
  rw [operations_eq, hr, if_neg Bool.false_ne_true, List.append_assoc, runOps_append (run_tickOps s),
    runOps_append hs, hc]

/-- A cycle with reset performs RESET alone (30_encoding R54). -/
theorem operations_reset {s : State} (hr : s.inp.rst = true) : s.operations = [.reset] := by
  rw [operations_eq, hr, if_pos rfl]

/-- A step always answers a next state, and this one (R94, R97). -/
theorem step_eq (s : State) : step s = .next (stepState s) := by
  rw [step]
  by_cases hr : s.sampled.rst = true
  · rw [operations_reset (s := s.openCycle) hr]
    simp [runOps, exec, execReset, State.closeCycle, stepState, stepRegs, stepLane, tickOp,
      cycleOutputs_eq, handled, offered, hr]
  · replace hr : s.sampled.rst = false := by simpa using hr
    rw [run_operations (s := s.openCycle) hr]
    have hn : (sendEffect (tickEffect s.openCycle)).nxt = stepRegs s.params s.regs s.sampled := by
      rw [sendEffect_tickEffect_nxt _ (by simp [hr]), stepRegs]
      simp only [openCycle_params, openCycle_regs, openCycle_inp, openCycle_nxt, hr]
      rcases Bool.eq_false_or_eq_true (tickEff s.params s.regs s.sampled) with ht | ht <;>
        simp [ht]
    have ho : (ctlEffect (sendEffect (tickEffect s.openCycle))).out =
        cycleOutputs s.params s.regs s.sampled := by
      rw [ctlEffect_sendEffect_out (o := s.out) (by simp), cycleOutputs_eq, handled, hr]
      rcases Bool.eq_false_or_eq_true (isGet s.params s.sampled) with hg | hg <;>
        simp [hg, driveInt, driveCtl]
    rcases Bool.eq_false_or_eq_true (tickEff s.params s.regs s.sampled) with ht | ht <;>
      refine congrArg Host.Outcome.next (State.ext ?_ ?_ ?_ ?_ ?_ ?_ ?_ ?_ ?_) <;>
      simp [stepState, stepLane, tickOp, hn, ho, hr, ht]

end Sys2Proof.Machine
end

