-- ==== Sys2Proof/Laws/Run.lean ====
section
/-! SUPPORT. Runs: what k steps answer and what each cycle of a history records, said once, and the induction over
a run packaged. -/

namespace Sys2Proof.Machine

section
variable (s : State)

@[simp] theorem stepState_regs :
    (stepState s).regs = stepRegs s.params s.regs s.sampled := rfl
@[simp] theorem stepState_nxt : (stepState s).nxt = stepRegs s.params s.regs s.sampled := rfl
@[simp] theorem stepState_params : (stepState s).params = s.params := rfl
@[simp] theorem stepState_inp : (stepState s).inp = s.sampled := rfl
@[simp] theorem stepState_out :
    (stepState s).out = cycleOutputs s.params s.regs s.sampled := rfl

end

/-- The state after k steps. -/
def after : Nat → State → State
  | 0, s => s
  | k + 1, s => after k (stepState s)

/-- The last step of k + 1. -/
theorem after_succ (k : Nat) (s : State) : after (k + 1) s = stepState (after k s) := by
  induction k generalizing s with
  | zero => rfl
  | succ k ih => rw [after, ih, after]

/-- k steps always answer a next state, and this one. -/
theorem runFor_eq (k : Nat) (s : State) : runFor k s = .next (after k s) := by
  induction k generalizing s with
  | zero => rfl
  | succ k ih => rw [runFor, step_eq]; exact ih _

/-- One step of the host's run of any machine. -/
theorem core_run_succ {M : Host.Core} {s t : M.State} (h : M.step s = .next t) (k : Nat) :
    M.run (k + 1) s = M.run k t := by
  rw [Host.Core.run, h]

/-- The host's run of this machine is `runFor`. -/
theorem core_run_eq (k : Nat) (s : State) : Host.Core.run Sys2Proof.core k s = runFor k s := by
  induction k generalizing s with
  | zero => rfl
  | succ k ih =>
    refine (core_run_succ (M := Sys2Proof.core) (step_eq s) k).trans ((ih _).trans ?_)
    rw [runFor, step_eq]

/-- No step changes the parameters (10_state R23). -/
@[simp] theorem after_params (k : Nat) (s : State) : (after k s).params = s.params := by
  induction k generalizing s with
  | zero => rfl
  | succ k ih => rw [after, ih]; rfl

/-- What one cycle from a state records. -/
def cycleAt (s : State) : Cycle :=
  { pre := s.regs
    inp := s.sampled
    out := cycleOutputs s.params s.regs s.sampled
    post := stepRegs s.params s.regs s.sampled }

@[simp] theorem history_zero (s : State) : history 0 s = [] := rfl

/-- The first cycle of a history, then the rest. -/
theorem history_succ (k : Nat) (s : State) :
    history (k + 1) s = cycleAt s :: history k (stepState s) := by
  rw [history, step_eq]
  rfl

/-- The history of k + 1 cycles ends with cycle k. -/
theorem history_snoc (k : Nat) (s : State) :
    history (k + 1) s = history k s ++ [cycleAt (after k s)] := by
  induction k generalizing s with
  | zero => rw [history_succ]; rfl
  | succ k ih => rw [history_succ, ih, history_succ]; rfl

@[simp] theorem history_length (k : Nat) (s : State) : (history k s).length = k := by
  induction k generalizing s with
  | zero => rfl
  | succ k ih => rw [history_succ, List.length_cons, ih]

/-- Cycle n of a history. -/
theorem history_get {k n : Nat} (h : n < k) (s : State) :
    (history k s)[n]? = some (cycleAt (after n s)) := by
  induction n generalizing k s with
  | zero =>
    obtain ⟨k, rfl⟩ := Nat.exists_eq_add_of_lt h
    rw [Nat.zero_add, history_succ]; rfl
  | succ n ih =>
    obtain ⟨k, rfl⟩ : ∃ j, k = j + 1 := ⟨k - 1, by omega⟩
    rw [history_succ, List.getElem?_cons_succ, ih (by omega)]
    rfl

/-- Cycle n of a history is there only for n below its length. -/
theorem history_get_some {k n : Nat} {s : State} {c : Cycle} (h : (history k s)[n]? = some c) :
    n < k ∧ c = cycleAt (after n s) := by
  have hn : n < k := by
    have := List.getElem?_eq_some_iff.1 h
    obtain ⟨hl, -⟩ := this
    rwa [history_length] at hl
  rw [history_get hn] at h
  exact ⟨hn, (Option.some.inj h).symm⟩

/-- A property that the start has and every step keeps holds after every number of steps. -/
theorem after_induction {P : State → Prop} (hs : ∀ s, P s → P (stepState s)) (k : Nat) {s : State}
    (h : P s) : P (after k s) := by
  induction k generalizing s with
  | zero => exact h
  | succ k ih => exact ih (hs s h)

end Sys2Proof.Machine
end

