-- ==== Sys2Proof/Tests/Slice0.lean ====
section
/-! SUPPORT. Tests. Expected values come from spec/95_test_vectors.md and the rules named, never from the model. After them,
for every statement with hypotheses, a witness: a concrete state and operands that meet them together. -/

namespace Sys2Proof.Tests

open Sys2Proof Sys2Proof.Machine

/-! ### Helpers -/

/-- The candidate table of 93_implementation_defined G5. -/
def candidateTable : List Byte :=
  [0, 3, 6, 9, 12, 16, 19, 22, 25, 28, 31, 34, 37, 40, 43, 46]
    ++ [49, 51, 54, 57, 60, 63, 65, 68, 71, 73, 76, 78, 81, 83, 85, 88]
    ++ [90, 92, 94, 96, 98, 100, 102, 104, 106, 107, 109, 111, 112, 113, 115, 116]
    ++ [117, 118, 120, 121, 122, 122, 123, 124, 125, 125, 126, 126, 126, 127, 127, 127]

/-- Parameters with a table: pulse mode, +1, the default request code. -/
def paramsOf (table : List Byte) : Params :=
  { qwt := Vector.ofFn fun j => table.getD j.val 0x7F
    initX := .plus
    initY := .plus
    tickSync := .pulse
    reqGetReport := 0x01 }

def cand : Params := paramsOf candidateTable

/-- The lowest table: all 0 but entry 63. -/
def lowest : Params := paramsOf (List.replicate 63 0x00 ++ [0x7F])

/-- A table that differs from the lowest one only below bit 4. -/
def lowBits : Params := paramsOf (0x00 :: List.replicate 62 0x0F ++ [0x7F])

/-- The highest table: all 0x7F but entry 0. -/
def highest : Params := paramsOf [0x00]

/-- Toggle mode with two stages. -/
def toggleParams : Params := { cand with tickSync := .toggle 0 }

/-- The state after reset under the parameters, with the CIW words of the coming cycles. The first word is on
the input ports too, for tests of one operation. -/
def start (p : Params) (words : List InputWord) : State :=
  { State.reset with
    params := p
    regs := Regs.atReset p
    nxt := Regs.atReset p
    inp := decodeCiw (words.headD 0)
    pending := words.map decodeCiw }

/-- The same with a phase, a ready flag and the displacement bytes. -/
def at_ (phase : Byte) (flag : Bool) (x y : Byte) (words : List InputWord) : State :=
  let r : Regs := { phaseQ := phase, flagQ := flag, rbXQ := x, rbYQ := y, syncQ := [], edgeQ := false }
  { start cand words with regs := r, nxt := r }

/-- Toggle mode with given synchroniser stages and edge register. -/
def toggleAt (sync : List Bool) (edge : Bool) (words : List InputWord) : State :=
  let r : Regs := { Regs.atReset toggleParams with syncQ := sync, edgeQ := edge }
  { start toggleParams words with regs := r, nxt := r }

/-- The state an outcome answers. -/
def answered (o : Host.Outcome State Fault Refusal) : State :=
  match o with
  | .next t => t
  | .fault _ => State.reset
  | .refused _ => State.reset

/-! ### Well-formedness (43_control_query R89) -/

theorem test_wf_refuses_get_report_of_a_vendor_request :
    (Instr.getReport 0xC0 0x01).wf 0x01 = false := by decide

theorem test_wf_refuses_get_report_of_another_code :
    (Instr.getReport 0xA1 0x02).wf 0x01 = false := by decide

theorem test_wf_refuses_unhandled_of_a_get_report_request :
    (Instr.ctlUnhandled 0x21 0x01).wf 0x01 = false := by decide

/-! ### Decoding: words of the opcode table and of vectors T4 and T5 -/

theorem test_decode_reset : decodeDw 0x01 0x000001 = [.reset] := by decide
theorem test_decode_tick : decodeDw 0x01 0x000002 = [.tick] := by decide
theorem test_decode_try_send : decodeDw 0x01 0x00000C = [.trySend] := by decide
theorem test_decode_get_report : decodeDw 0x01 0x003430 = [.getReport 0xA1 0x01] := by decide
theorem test_decode_get_report_ignores_direction :
    decodeDw 0x01 0x002430 = [.getReport 0x21 0x01] := by decide
theorem test_decode_standard_request :
    decodeDw 0x01 0x00D010 = [.ctlUnhandled 0x80 0x06] := by decide
theorem test_decode_vendor_request :
    decodeDw 0x01 0x003810 = [.ctlUnhandled 0xC0 0x01] := by decide
theorem test_decode_reserved_type :
    decodeDw 0x01 0x003C30 = [.ctlUnhandled 0xE1 0x01] := by decide
theorem test_decode_other_class_code :
    decodeDw 0x01 0x005430 = [.ctlUnhandled 0xA1 0x02] := by decide
theorem test_decode_other_code_parameter :
    decodeDw 0x09 0x003430 = [.ctlUnhandled 0xA1 0x01] ∧
      decodeDw 0x09 0x013430 = [.getReport 0xA1 0x09] := by decide
theorem test_decode_not_valid_is_idle : decodeDw 0x01 0x003420 = [] := by decide
theorem test_decode_reset_overrides : decodeDw 0x01 0x00343F = [.reset] := by decide
theorem test_decode_all_three :
    decodeDw 0x01 0x00343E = [.tick, .trySend, .getReport 0xA1 0x01] := by decide
theorem test_decode_map_q0 : decodePhase .x 0x05 = .mapQ0 .x 5 := by decide
theorem test_decode_map_q1 : decodePhase .y 0x7F = .mapQ1 .y 63 := by decide
theorem test_decode_map_q2 : decodePhase .x 0x85 = .mapQ2 .x 5 := by decide
theorem test_decode_map_q3 : decodePhase .y 0xFE = .mapQ3 .y 62 := by decide

/-- The nine rows of the opcode table by their match values (R53, R55). -/
theorem test_table_rows :
    [decodeTableWord 24 0x000001, decodeTableWord 24 0x000002, decodeTableWord 24 0x00000C,
      decodeTableWord 24 0x002410, decodeTableWord 24 0x000010] =
        [some .reset, some .tick, some .trySend, some (.getReport 0x20 0x01),
          some (.ctlUnhandled 0x00 0x00)] ∧
      [decodeTableWord 8 0x00, decodeTableWord 8 0x40, decodeTableWord 8 0x80,
        decodeTableWord 8 0xC0] =
        [some (.mapQ0 .x 0), some (.mapQ1 .x 0), some (.mapQ2 .x 0), some (.mapQ3 .x 0)] := by
  decide

theorem test_idle_word_selects_nothing : decodeTableWord 24 0x000004 = none := by decide
theorem test_wide_word_is_rejected : decodeTableWord 24 0x200001 = none := by decide
theorem test_reject_names :
    decodeOne 0x01 (.dw 0x000004) = .error .idle ∧ tableCode 24 0x200001 = .error .width := by
  decide

/-- A word placed for the next step runs as its operation, from reset too (R53). -/
theorem test_placed_tick_runs :
    (answered (step (State.reset.withFetchWord 24 0x000002))).regs.phaseQ = 0x01 := by decide

/-- Vector T4: the CIW words of two queries (R58). -/
theorem test_input_words :
    encodeCiw { Inputs.idle with ctlValid := true, ctlBmrt := 0xC0, ctlBreq := 0x01 } = 0x01C08 ∧
      decodeCiw 0x01A19 =
        { Inputs.idle with rst := true, ctlValid := true, ctlBmrt := 0xA1, ctlBreq := 0x01 } := by
  decide

/-! ### The mapper (vector T1, candidate table) -/

theorem test_map_q0_lane_x :
    (answered (exec (.mapQ0 .x 32) (start cand []))).laneX = some 0x05 := by decide
theorem test_map_q1_mirrors :
    (answered (exec (.mapQ1 .y 32) (start cand []))).laneY = some 0x05 := by decide
theorem test_map_q2_negates :
    (answered (exec (.mapQ2 .x 5) (start cand []))).laneX = some 0xFF := by decide
theorem test_map_q2_no_negative_zero :
    (answered (exec (.mapQ2 .y 0) (start cand []))).laneY = some 0x00 := by decide
theorem test_map_q3_shifts_before_negating :
    (answered (exec (.mapQ3 .x 0) (start cand []))).laneX = some 0xF9 := by decide
theorem test_map_q3_small_magnitude :
    (answered (exec (.mapQ3 .x 62) (start cand []))).laneX = some 0x00 := by decide

/-! ### One cycle of each operation -/

/-- Vectors V2 and T2, and one row further: the phases 0x3F and 0xBF. -/
theorem test_tick_at_0x3F :
    let t := answered (step (at_ 0x3F false 0 0 [0x00002]))
    memRead t.regs = 0x000700 ∧ t.regs.phaseQ = 0x40 ∧ t.regs.flagQ = true := by decide

theorem test_tick_wraps :
    let t := answered (step (at_ 0xFF true 0x00 0x07 [0x00002]))
    memRead t.regs = 0x070000 ∧ t.regs.phaseQ = 0x00 := by decide

/-- Vector T3, row 4. -/
theorem test_try_send_claims :
    let t := answered (step (at_ 0x40 true 0x07 0x00 [0x00004]))
    t.out.intValid = true ∧ t.out.intData = 0x000700 ∧ t.regs.flagQ = false := by decide

/-- Vector T3, row 8: the old sample leaves and the set wins. -/
theorem test_set_wins :
    let t := answered (step (at_ 0x3F true 0xF9 0x00 [0x00006]))
    t.out.intData = 0x00F900 ∧ t.regs.flagQ = true ∧ memRead t.regs = 0x000700 := by decide

/-- Vector T4, row 1. -/
theorem test_get_report :
    let t := answered (step (at_ 0x40 false 0x07 0x00 [0x01A18]))
    t.out.ctlRespLen = 3 ∧ t.out.ctlRespData = 0x000700 ∧ t.regs.flagQ = false := by decide

/-- Vector T4, row 4. -/
theorem test_unhandled :
    let t := answered (step (at_ 0x40 true 0x07 0x00 [0x01C08]))
    t.out.ctlRespLen = 0 ∧ t.out.ctlRespData = 0x000000 ∧ t.regs.flagQ = true := by decide

/-- Vector T4, last row, with every input asserted (R109). -/
theorem test_reset_overrides :
    let t := answered (step (at_ 0x40 true 0x07 0x00 [0x01A1F]))
    t.regs = Regs.atReset cand ∧ t.out.intValid = false ∧ t.out.ctlRespLen = 0 := by decide

/-- P_INIT_X and P_INIT_Y as −1 (10_state R19): the bytes are 0xFF. -/
theorem test_reset_to_minus_one :
    let t := answered (step (start { cand with initX := .minus, initY := .minus } [0x00001]))
    memRead t.regs = 0xFFFF00 := by decide

/-- Toggle mode (41_generator R73): the last stage against the edge register, and the shift. -/
theorem test_toggle_shift :
    let t := answered (step (toggleAt [false, true] false [0x00002]))
    t.regs.phaseQ = 0x01 ∧ t.regs.syncQ = [true, false] ∧ t.regs.edgeQ = true := by decide

/-! ### Witnesses: the hypotheses of each statement can be met -/

/-- A run's states answer (the `runFor` hypotheses of the statements over runs). -/
theorem runs (k : Nat) (s : State) : ∃ t, runFor k s = .next t := ⟨_, runFor_eq k s⟩

/-- A step answers (the `step` hypotheses). -/
theorem steps (s : State) : ∃ t, step s = .next t := ⟨_, step_eq s⟩

theorem witness_tables : cand.wf ∧ lowest.wf ∧ highest.wf ∧ toggleParams.wf := by
  decide +kernel

theorem witness_StepKeepsInvariant :
    (start cand [0x00002]).Inv ∧ (start toggleParams [0x00002]).Inv ∧
      (at_ 0x40 true 0x07 0x00 [0x00006]).Inv ∧ ∃ t, step (start cand [0x00002]) = .next t :=
  ⟨⟨witness_tables.1, by decide⟩, ⟨witness_tables.2.2.2, by decide⟩,
    ⟨witness_tables.1, by decide⟩, steps _⟩

theorem witness_ResetCycleEstablishesInvariant :
    (toggleAt [true] true [0x00001]).params.wf ∧
      (toggleAt [true] true [0x00001]).sampled.rst = true ∧
      (at_ 0x77 true 0x55 0xAA [0xFFFFF]).params.wf ∧
      (at_ 0x77 true 0x55 0xAA [0xFFFFF]).sampled.rst = true :=
  ⟨witness_tables.2.2.2, rfl, witness_tables.1, rfl⟩

theorem witness_ResetCycleOverridesEverything :
    (at_ 0x77 true 0x55 0xAA [0xFFFFF, 0x00001]).sampled.rst = true ∧
      (∃ t, step (at_ 0x77 true 0x55 0xAA [0xFFFFF, 0x00001]) = .next t ∧ t.sampled.rst = true) ∧
      (∃ t, step (at_ 0x77 true 0x55 0xAA [0x00001, 0x01A18]) = .next t ∧ t.sampled.rst = false ∧
        isGet t.params t.sampled = true) :=
  ⟨rfl, ⟨_, step_eq _, by decide⟩, ⟨_, step_eq _, by decide⟩⟩

theorem witness_StepIsTheWholeCycleFunction :
    SyncShape (at_ 0x40 true 0x07 0x00 []).params (at_ 0x40 true 0x07 0x00 []).regs ∧
      SyncShape (toggleAt [true, false] true []).params (toggleAt [true, false] true []).regs := by
  decide

theorem witness_StepRunsTheDecodedOperation :
    ((Instr.getReport 0xA1 0x01).wf 0x01 = true ∧
      decode 0x01 (.dw (at_ 0x40 false 0x07 0x00 [0x01A18]).openCycle.decodeWord) =
        [.getReport 0xA1 0x01]) ∧
      decode 0x01 (.dw (at_ 0x40 true 0x07 0x00 [0xFFFFF]).openCycle.decodeWord) = [.reset] ∧
      decode 0x01 (.dw (at_ 0x3F false 0x07 0x00 [0x00002]).openCycle.decodeWord) = [.tick] ∧
      ∃ t, runOps (at_ 0x3F true 0x07 0x00 [0x00006]).openCycle.operations
        (at_ 0x3F true 0x07 0x00 [0x00006]).openCycle = .next t :=
  ⟨by decide, by decide, by decide, _, run_operations rfl⟩

theorem witness_OperationsOfACycleCommute :
    (at_ 0x3F true 0x07 0x00 [0x01A1E]).operations.reverse.Perm
      (at_ 0x3F true 0x07 0x00 [0x01A1E]).operations ∧
      (at_ 0x3F true 0x07 0x00 [0x01A1E]).operations.length = 5 :=
  ⟨List.reverse_perm _, by decide⟩

theorem witness_TableAndParametersAreReadOnly :
    (∃ t, exec .tick (start cand [0x00002]) = .next t) ∧
      ∃ t, runFor 3 (start cand [0x00002]) = .next t :=
  ⟨⟨_, rfl⟩, runs _ _⟩

theorem witness_DecodeOfEncodeIsTheOperation :
    Instr.reset.wf 0x00 = true ∧ (Instr.getReport 0x20 0xFF).wf 0xFF = true ∧
      (Instr.getReport 0xBF 0x00).wf 0x00 = true ∧ (Instr.ctlUnhandled 0x20 0xFE).wf 0xFF = true ∧
      (Instr.ctlUnhandled 0x60 0xFF).wf 0xFF = true ∧ (Instr.mapQ3 .y 63).wf 0x01 = true := by
  decide

theorem witness_DecodedOperationsAreWellFormed :
    Instr.getReport 0xA1 0x01 ∈ decode 0x01 (.dw 0x00343E) ∧
      Instr.mapQ3 .y 63 ∈ decode 0x01 (.phase .y 0xFF) := by decide

theorem witness_ScaledMagnitudeAssembly : cand.wf ∧ lowest.wf ∧ highest.wf :=
  ⟨witness_tables.1, witness_tables.2.1, witness_tables.2.2.1⟩

theorem witness_OperationsThatMayOccurTogether :
    Instr.reset ∈ (at_ 0x3F true 0x07 0x00 [0xFFFFF]).operations ∧
      (at_ 0x3F true 0x07 0x00 [0x00000]).openCycle.operations = [] ∧
      (toggleAt [true, false] false [0x00006]).openCycle.operations = [] := by decide

theorem witness_MapperArmsOfATick :
    Instr.tick ∈ (at_ 0xFF false 0x07 0x00 [0x00002]).operations ∧
      Instr.tick ∉ (at_ 0xFF false 0x07 0x00 [0x00003]).operations := by decide

theorem witness_StimulusLinesEncode : cand.tickSync = .pulse ∧ cand.reqGetReport = 0x01 :=
  ⟨rfl, rfl⟩

theorem witness_StimulusLevelTogglesOncePerTrigger :
    toggleParams.tickSync = .toggle 0 ∧
      (assembleLines toggleParams false [[.tk], [], [.tk, .rdy]])[2]? = some (decodeCiw 0x00004) := by
  decide

theorem witness_MapQ0RisingPositive :
    0x00#8 &&& 0xC0 = 0x00 ∧ 0x3F#8 &&& 0xC0 = 0x00 ∧ cand.wf ∧ qwtRead cand 0 < 0x10 ∧
      qwtRead cand 4 < 0x10 :=
  ⟨by decide, by decide, witness_tables.1, by decide, by decide⟩

theorem witness_MapQ1FallingPositive :
    0x40#8 &&& 0xC0 = 0x40 ∧ 0x7F#8 &&& 0xC0 = 0x40 ∧ lowest.wf :=
  ⟨by decide, by decide, witness_tables.2.1⟩

theorem witness_MapQ2FallingNegative :
    0x80#8 &&& 0xC0 = 0x80 ∧ 0xBF#8 &&& 0xC0 = 0x80 ∧ highest.wf :=
  ⟨by decide, by decide, witness_tables.2.2.1⟩

theorem witness_MapQ3RisingNegative :
    0xC0#8 &&& 0xC0 = 0xC0 ∧ 0xFF#8 &&& 0xC0 = 0xC0 ∧ cand.wf :=
  ⟨by decide, by decide, witness_tables.1⟩

theorem witness_MapStaysWithinSeven : lowest.wf ∧ highest.wf :=
  ⟨witness_tables.2.1, witness_tables.2.2.1⟩

theorem witness_MapSymmetries :
    0x00#8 < 128 ∧ 0x7F#8 < 128 ∧ lowest ≠ lowBits ∧
      ∀ j : Idx, qwtRead lowest j >>> 4 = qwtRead lowBits j >>> 4 := by decide +kernel

theorem witness_TableIndependentPhases :
    cand.wf ∧ 0x01#8 ∉ [0x00#8, 0x3F#8, 0x40#8, 0x7F#8, 0x80#8, 0xBF#8, 0xC0#8, 0xFF#8] ∧
      0xFE#8 ∉ [0x00#8, 0x3F#8, 0x40#8, 0x7F#8, 0x80#8, 0xBF#8, 0xC0#8, 0xFF#8] ∧
      (0x00#8 ≤ 0x3F#8 ∧ 0x3F#8 < 0x40) ∧ (0x40#8 ≤ 0x7F#8 ∧ 0x40 ≤ 0x40#8 ∧ 0x7F#8 < 0x80) :=
  ⟨witness_tables.1, by decide⟩

theorem witness_TickAdvancesPhaseAndWritesSample :
    (∃ t, exec .tick (at_ 0xFF true 0x00 0x07 [0x00002]) = .next t) ∧
      (0 : Fin 3) ≠ 1 ∧ (0 : Fin 3) ≠ 2 :=
  ⟨⟨_, rfl⟩, by decide⟩

theorem witness_TickCycleFollowsItsRule :
    ((at_ 0x3F true 0x07 0x00 [0x00006]).params = (at_ 0x3F false 0x01 0x01 []).params ∧
      (at_ 0x3F true 0x07 0x00 [0x00006]).regs.phaseQ = (at_ 0x3F false 0x01 0x01 []).regs.phaseQ) ∧
      (at_ 0xFF true 0x00 0x07 [0x00006]).sampled.rst = false ∧
      tickEff (at_ 0xFF true 0x00 0x07 [0x00006]).params (at_ 0xFF true 0x00 0x07 [0x00006]).regs
        (at_ 0xFF true 0x00 0x07 [0x00006]).sampled = true ∧
      (at_ 0xFF true 0x00 0x07 [0x00006]).params.wf ∧
      (at_ 0xFF true 0x00 0x07 [0x00006]).regs.phaseQ = 0xFF ∧
      (at_ 0x3F false 0x07 0x00 [0x00002]).sampled.rst = false ∧
      tickEff (at_ 0x3F false 0x07 0x00 [0x00002]).params (at_ 0x3F false 0x07 0x00 [0x00002]).regs
        (at_ 0x3F false 0x07 0x00 [0x00002]).sampled = true ∧
      (at_ 0x3F false 0x07 0x00 [0x00002]).params.wf ∧
      (at_ 0x3F false 0x07 0x00 [0x00002]).regs.phaseQ = 0x3F :=
  ⟨⟨rfl, rfl⟩, rfl, rfl, witness_tables.1, rfl, rfl, rfl, witness_tables.1, rfl⟩

theorem witness_PulseModeTriggers :
    (at_ 0x3F true 0x07 0x00 [0x00002]).params.tickSync = .pulse ∧
      SyncShape (at_ 0x3F true 0x07 0x00 [0x00002]).params (at_ 0x3F true 0x07 0x00 [0x00002]).regs ∧
      (at_ 0x3F true 0x07 0x00 [0x00002]).sampled.rst = false := by decide

theorem witness_ToggleModeShifts :
    (toggleAt [false, true] true [0x00002]).params.tickSync = .toggle 0 ∧
      (toggleAt [false, true] true [0x00002]).regs.syncQ.length = 2 ∧
      (toggleAt [false, true] true [0x00002]).sampled.rst = false ∧
      (toggleAt [false, true] true [0x00003]).sampled.rst = true := by decide

theorem witness_ToggleTriggerIsDelayedLevelChange :
    (start toggleParams [0x00002, 0x00000, 0x00000]).params.tickSync = .toggle 0 ∧
      (start toggleParams [0x00002, 0x00000, 0x00000]).regs = Regs.atReset toggleParams ∧
      (∃ t, runFor 3 (start toggleParams [0x00002, 0x00000, 0x00000]) = .next t) ∧
      NoReset (history 3 (start toggleParams [0x00002, 0x00000, 0x00000])) :=
  ⟨rfl, rfl, runs _ _, by unfold NoReset; decide⟩

theorem witness_LevelHeldThroughResetTicksOnce :
    (start toggleParams [0x00002, 0x00002, 0x00002]).params.tickSync = .toggle 0 ∧
      (start toggleParams [0x00002, 0x00002, 0x00002]).regs = Regs.atReset toggleParams ∧
      (∃ t, runFor 3 (start toggleParams [0x00002, 0x00002, 0x00002]) = .next t) ∧
      NoReset (history 3 (start toggleParams [0x00002, 0x00002, 0x00002])) ∧
      ∀ c ∈ history 3 (start toggleParams [0x00002, 0x00002, 0x00002]), c.inp.tick = true :=
  ⟨rfl, rfl, runs _ _, by unfold NoReset; decide, by decide⟩

theorem witness_KthTickAfterReset :
    (start cand [0x00002, 0x00000]).regs = Regs.atReset cand ∧
      (∃ t, runFor 2 (start cand [0x00002, 0x00000]) = .next t) ∧
      NoReset (history 2 (start cand [0x00002, 0x00000])) ∧
      1 ≤ tickCount cand (history 2 (start cand [0x00002, 0x00000])) :=
  ⟨rfl, runs _ _, by unfold NoReset; decide, by decide⟩

theorem witness_TrySendClaimsAndPresents :
    ((at_ 0x3F true 0x07 0x00 [0x00006]).inp.rst = false ∧
      (at_ 0x3F true 0x07 0x00 [0x00006]).regs.flagQ = true ∧
      (at_ 0x3F true 0x07 0x00 [0x00006]).inp.intReady = true) ∧
      ¬ ((at_ 0x3F true 0x07 0x00 [0x00002]).inp.rst = false ∧
        (at_ 0x3F true 0x07 0x00 [0x00002]).regs.flagQ = true ∧
        (at_ 0x3F true 0x07 0x00 [0x00002]).inp.intReady = true) := by decide

theorem witness_ReadyFlagSetWinsOverClear :
    (∃ t, (at_ 0x3F true 0x07 0x00 [0x00006]).sampled.rst = false ∧
      step (at_ 0x3F true 0x07 0x00 [0x00006]) = .next t ∧
      tickEff cand (at_ 0x3F true 0x07 0x00 []).regs (at_ 0x3F true 0x07 0x00 [0x00006]).sampled =
        true ∧
      t.out.intValid = true ∧ (at_ 0x3F true 0x07 0x00 [0x00006]).sampled.intReady = true ∧
      t.regs.flagQ = true) ∧
      ∃ t, (at_ 0x40 true 0x07 0x00 [0x00004]).sampled.rst = false ∧
        step (at_ 0x40 true 0x07 0x00 [0x00004]) = .next t ∧
        (at_ 0x40 true 0x07 0x00 [0x00004]).regs.flagQ = true ∧ t.regs.flagQ = false :=
  ⟨⟨_, rfl, step_eq _, by decide⟩, ⟨_, rfl, step_eq _, by decide⟩⟩

theorem witness_BackpressureHoldsTheOffer :
    (at_ 0x40 true 0x07 0x00 [0x00000, 0x01A18]).regs.flagQ = true ∧
      (∃ t, runFor 2 (at_ 0x40 true 0x07 0x00 [0x00000, 0x01A18]) = .next t) ∧
      NoReset (history 2 (at_ 0x40 true 0x07 0x00 [0x00000, 0x01A18])) ∧
      (∀ c ∈ history 2 (at_ 0x40 true 0x07 0x00 [0x00000, 0x01A18]), c.inp.intReady = false) ∧
      tickCount cand (history 2 (at_ 0x40 true 0x07 0x00 [0x00000, 0x01A18])) = 0 :=
  ⟨rfl, runs _ _, by unfold NoReset; decide, by decide, by decide⟩

/-- Clauses (a) to (c) and (e): TK; TK, RDY; RDY: two transfers, each after a TICK of its own. -/
theorem witness_DeliveryAtMostOncePerSample :
    (start cand [0x00002, 0x00006, 0x00004]).regs = Regs.atReset cand ∧
      TickAt cand (history 3 (start cand [0x00002, 0x00006, 0x00004])) 0 ∧
      TickAt cand (history 3 (start cand [0x00002, 0x00006, 0x00004])) 1 ∧
      TransferAt (history 3 (start cand [0x00002, 0x00006, 0x00004])) 1 ∧
      TransferAt (history 3 (start cand [0x00002, 0x00006, 0x00004])) 2 ∧
      TransfersSampleOf cand (history 3 (start cand [0x00002, 0x00006, 0x00004])) 1 0 :=
  ⟨rfl, ⟨_, history_get (by decide) _, by decide⟩, ⟨_, history_get (by decide) _, by decide⟩,
    ⟨_, history_get (by decide) _, by decide⟩, ⟨_, history_get (by decide) _, by decide⟩,
    ⟨_, history_get (by decide) _, by decide⟩, ⟨_, history_get (by decide) _, by decide⟩,
    by decide, fun _ _ _ => by omega,
    ⟨_, _, history_get (by decide) _, history_get (by decide) _, by decide⟩⟩

/-- Clause (d): TK, RST, RDY: the one TICK before the last cycle has a reset after it. -/
theorem witness_DeliveryAtMostOncePerSample_reset :
    (start cand [0x00002, 0x00001, 0x00004]).regs = Regs.atReset cand ∧
      TickAt cand (history 3 (start cand [0x00002, 0x00001, 0x00004])) 0 ∧
      ∀ j, j < 2 → TickAt cand (history 3 (start cand [0x00002, 0x00001, 0x00004])) j →
        ∃ r, j < r ∧ r < 2 ∧ ResetAt (history 3 (start cand [0x00002, 0x00001, 0x00004])) r := by
  have hr : ResetAt (history 3 (start cand [0x00002, 0x00001, 0x00004])) 1 :=
    ⟨_, history_get (by decide) _, rfl⟩
  refine ⟨rfl, ⟨_, history_get (by decide) _, by decide⟩, fun j hj ht => ?_⟩
  rcases Nat.lt_or_ge j 1 with h | h
  · exact ⟨1, h, by omega, hr⟩
  · obtain rfl : j = 1 := by omega
    obtain ⟨c, hc, hk⟩ := ht
    obtain ⟨-, rfl⟩ := history_get_some hc
    exact absurd hk (by decide)

theorem witness_SameCycleTickAndTransfer :
    ((at_ 0x3F true 0x07 0x00 [0x00006, 0x00000]).sampled.rst = false ∧
      (at_ 0x3F true 0x07 0x00 [0x00006, 0x00000]).regs.flagQ = true ∧
      (at_ 0x3F true 0x07 0x00 [0x00006, 0x00000]).sampled.intReady = true ∧
      tickEff cand (at_ 0x3F true 0x07 0x00 []).regs
        (at_ 0x3F true 0x07 0x00 [0x00006, 0x00000]).sampled = true) ∧
      ∃ t, step (at_ 0x3F true 0x07 0x00 [0x00006, 0x00000]) = .next t ∧ t.sampled.rst = false :=
  ⟨by decide, _, step_eq _, by decide⟩

theorem witness_GetReportAnswersWithTheBuffer :
    ((0x20 : Byte).extractLsb' 5 2 = 0b01#2 ∧ (0xBF : Byte).extractLsb' 5 2 = 0b01#2 ∧
      0x01 = (start cand [0x01A18]).params.reqGetReport ∧ (start cand [0x01A18]).inp.rst = false) ∧
      ¬ ((0x60 : Byte).extractLsb' 5 2 = 0b01#2) ∧ ¬ 0x02 = (start cand [0x01A18]).params.reqGetReport ∧
      ¬ (start cand [0x01A19]).inp.rst = false := by decide

theorem witness_UnhandledRequestAnswersLengthZero :
    (¬ ((0x60 : Byte).extractLsb' 5 2 = 0b01#2 ∧ 0x01 = (start cand [0x01C08]).params.reqGetReport) ∧
      (start cand [0x01C08]).inp.rst = false) ∧
      ((0x20 : Byte).extractLsb' 5 2 = 0b01#2 ∧ 0x01 = (start cand [0x01C08]).params.reqGetReport) ∧
      (start cand [0x01C09]).inp.rst = true := by decide

theorem witness_ControlAnswerOfACycle :
    handled cand (start cand [0x01A18]).sampled = true ∧
      handled cand (start cand [0x01C08]).sampled = false ∧
      (start cand [0x01A10]).sampled.ctlValid = false ∧
      (start cand [0x01A19]).sampled.rst = true := by decide

theorem witness_SameCycleTickAndQuery :
    handled cand (at_ 0x3F true 0x07 0x00 [0x01A1A, 0x01A18]).sampled = true ∧
      tickEff cand (at_ 0x3F true 0x07 0x00 []).regs
        (at_ 0x3F true 0x07 0x00 [0x01A1A, 0x01A18]).sampled = true ∧
      ∃ t, step (at_ 0x3F true 0x07 0x00 [0x01A1A, 0x01A18]) = .next t ∧
        handled t.params t.sampled = true :=
  ⟨by decide, by decide, _, step_eq _, by decide⟩

theorem witness_QueriesBetweenTicksAgree :
    ∃ c d, (history 2 (at_ 0x40 true 0x07 0x00 [0x01A18, 0x01A1A]))[0]? = some c ∧
      (history 2 (at_ 0x40 true 0x07 0x00 [0x01A18, 0x01A1A]))[1]? = some d ∧
      c.out.ctlRespLen = 3 ∧ d.out.ctlRespLen = 3 ∧
      ∀ j, 0 ≤ j → j < 1 →
        ¬ TickAt cand (history 2 (at_ 0x40 true 0x07 0x00 [0x01A18, 0x01A1A])) j ∧
          ¬ ResetAt (history 2 (at_ 0x40 true 0x07 0x00 [0x01A18, 0x01A1A])) j := by
  refine ⟨_, _, history_get (by decide) _, history_get (by decide) _, by decide, by decide, ?_⟩
  intro j _ hj
  obtain rfl : j = 0 := by omega
  refine ⟨fun ⟨c, hc, hk⟩ => ?_, fun ⟨c, hc, hk⟩ => ?_⟩ <;>
    obtain ⟨-, rfl⟩ := history_get_some hc <;> exact absurd hk (by decide)

theorem witness_ReportLayoutOnThePorts :
    ∃ t, step (at_ 0x40 true 0x07 0x00 [0x01A18]) = .next t ∧ t.out.ctlRespLen = 3 ∧
      0x000700 = t.out.ctlRespData :=
  ⟨_, step_eq _, by decide⟩

theorem witness_WritersPerRegister :
    (∃ t, (at_ 0x40 false 0x07 0x00 [0x00002]).sampled.rst = false ∧
      step (at_ 0x40 false 0x07 0x00 [0x00002]) = .next t ∧ t.regs.flagQ = true) ∧
      (∃ t, step (at_ 0x40 true 0x07 0x00 [0x00004]) = .next t ∧ t.regs.flagQ = false ∧
        tickEff cand (at_ 0x40 true 0x07 0x00 []).regs
          (at_ 0x40 true 0x07 0x00 [0x00004]).sampled = false) ∧
      (at_ 0x40 true 0x07 0x00 [0x00001]).sampled.rst = true ∧
      (∃ t, exec .tick (start cand []) = .next t) ∧
      (∃ t, exec .trySend (at_ 0x40 true 0x07 0x00 [0x00004]) = .next t) ∧
      ∃ t, exec (.getReport 0xA1 0x01) (start cand [0x01A18]) = .next t :=
  ⟨⟨_, rfl, step_eq _, by decide⟩, ⟨_, step_eq _, by decide⟩, rfl, ⟨_, rfl⟩,
    ⟨_, exec_effect _ _⟩, _, exec_effect _ _⟩

end Sys2Proof.Tests
end

section
/-! PROOFS. The encodings (30_encoding): the operation map R53, the lengths R50, the report's layout R49, the phase
word R45, the folded index R46 and the stimulus lines R60. -/

namespace Sys2Proof.Machine

open Sys2Proof

/-! ### The operation map (R53) -/

/-- A mapper arm, which a lane selects and no decode word (R55). -/
def isMapperArm : Instr → Bool
  | .mapQ0 .. | .mapQ1 .. | .mapQ2 .. | .mapQ3 .. => true
  | .reset | .tick | .trySend | .getReport .. | .ctlUnhandled .. => false

theorem isMapperArm_decodePhase (lane : Lane) (p : Byte) :
    isMapperArm (decodePhase lane p) = true := by
  rw [decodePhase_quadrant]
  cases phaseSign p <;> cases phaseMirror p <;> rfl

theorem isMapperArm_of_mem_mapperOps {s : State} {i : Instr} (h : i ∈ s.mapperOps) :
    isMapperArm i = true := by
  rw [State.mapperOps] at h
  split at h
  · obtain rfl | rfl : i = _ ∨ i = _ := by simpa using h
    all_goals exact isMapperArm_decodePhase ..
  · cases h

/-- Every operation of a cycle but the mapper's arms is one the cycle's decode word selects. -/
theorem mem_operations {i : Instr} (h : isMapperArm i = false) (s : State) :
    i ∈ s.operations ↔ i ∈ decodeDw s.params.reqGetReport s.decodeWord := by
  have hm : i ∉ s.mapperOps := fun hi => by simp [isMapperArm_of_mem_mapperOps hi] at h
  rw [State.operations, List.mem_append, decode, or_iff_right hm]

theorem row_hits_iff {n : Nat} (r : Row n) (x : BitVec n) :
    r.hits x = true ↔ x &&& r.mask = r.pattern :=
  beq_iff_eq

/-- The control responder's operation by the rows: CTL_UNHANDLED only where GET_REPORT's row misses (R53). -/
theorem mem_decodeCtl (req : Byte) (w : DecodeWord) (i : Instr) :
    i ∈ decodeCtl req w ↔
      (rowGetReport req).hits w = true ∧ i = .getReport (dwBmrt w) (dwBreq w) ∨
      (rowCtl.hits w = true ∧ (rowGetReport req).hits w = false) ∧
        i = .ctlUnhandled (dwBmrt w) (dwBreq w) := by
  rw [decodeCtl]
  cases (rowGetReport req).hits w <;> simp

/-- A decode word selects an operation exactly when it hits the operation's row (R53). -/
theorem mem_decodeDw (req : Byte) (w : DecodeWord) (i : Instr) :
    i ∈ decodeDw req w ↔
      rowReset.hits w = true ∧ i = .reset ∨ rowTick.hits w = true ∧ i = .tick ∨
      rowTrySend.hits w = true ∧ i = .trySend ∨
      (rowGetReport req).hits w = true ∧ i = .getReport (dwBmrt w) (dwBreq w) ∨
      (rowCtl.hits w = true ∧ (rowGetReport req).hits w = false) ∧
        i = .ctlUnhandled (dwBmrt w) (dwBreq w) := by
  simp only [decodeDw, List.mem_append, List.mem_ite_nil_right, List.mem_singleton, mem_decodeCtl,
    or_assoc]

section
variable (s : State) (b r : Byte)

theorem reset_mem_operations : .reset ∈ s.operations ↔ rowReset.hits s.decodeWord = true := by
  rw [mem_operations rfl]
  simp [mem_decodeDw]

theorem tick_mem_operations : .tick ∈ s.operations ↔ rowTick.hits s.decodeWord = true := by
  rw [mem_operations rfl]
  simp [mem_decodeDw]

theorem trySend_mem_operations : .trySend ∈ s.operations ↔ rowTrySend.hits s.decodeWord = true := by
  rw [mem_operations rfl]
  simp [mem_decodeDw]

theorem getReport_mem_operations :
    .getReport b r ∈ s.operations ↔
      (rowGetReport s.params.reqGetReport).hits s.decodeWord = true ∧
        b = s.inp.ctlBmrt ∧ r = s.inp.ctlBreq := by
  rw [mem_operations rfl, mem_decodeDw]
  simp [State.decodeWord]

theorem ctlUnhandled_mem_operations :
    .ctlUnhandled b r ∈ s.operations ↔
      (rowCtl.hits s.decodeWord = true ∧
        (rowGetReport s.params.reqGetReport).hits s.decodeWord = false) ∧
        b = s.inp.ctlBmrt ∧ r = s.inp.ctlBreq := by
  rw [mem_operations rfl, mem_decodeDw]
  simp [State.decodeWord]

theorem exists_getReport_mem_operations :
    (∃ b r, .getReport b r ∈ s.operations) ↔
      (rowGetReport s.params.reqGetReport).hits s.decodeWord = true := by
  simp [getReport_mem_operations]

theorem exists_ctlUnhandled_mem_operations :
    (∃ b r, .ctlUnhandled b r ∈ s.operations) ↔
      rowCtl.hits s.decodeWord = true ∧
        ¬ (rowGetReport s.params.reqGetReport).hits s.decodeWord = true := by
  simp [ctlUnhandled_mem_operations]

/-! The condition of each row on S_n and I_n (R53). -/

theorem rowReset_hits_decodeWord : rowReset.hits s.decodeWord = true ↔ s.inp.rst = true := by
  rw [rowReset_hits, State.decodeWord, dwRst_assembleDw]

theorem rowTick_hits_decodeWord :
    rowTick.hits s.decodeWord = true ↔
      s.inp.rst = false ∧ tickEff s.params s.regs s.inp = true := by
  simp [rowTick_hits, State.decodeWord]

theorem rowTrySend_hits_decodeWord :
    rowTrySend.hits s.decodeWord = true ↔
      s.inp.rst = false ∧ s.regs.flagQ = true ∧ s.inp.intReady = true := by
  simp [rowTrySend_hits, State.decodeWord, and_assoc]

theorem rowGetReport_hits_decodeWord :
    (rowGetReport s.params.reqGetReport).hits s.decodeWord = true ↔
      s.inp.rst = false ∧ s.inp.ctlValid = true ∧ s.inp.ctlBmrt.extractLsb' 5 2 = 0b01#2 ∧
        s.inp.ctlBreq = s.params.reqGetReport := by
  simp [rowGetReport_hits, State.decodeWord, requestIsGetReport, and_assoc]

theorem rowCtl_hits_decodeWord :
    rowCtl.hits s.decodeWord = true ↔ s.inp.rst = false ∧ s.inp.ctlValid = true := by
  simp [rowCtl_hits, State.decodeWord]

/-- CTL_UNHANDLED's row, with GET_REPORT's excluded, is a request that is not a get-report (R53, R89). -/
theorem rowCtl_only_hits_decodeWord :
    (rowCtl.hits s.decodeWord = true ∧
      (rowGetReport s.params.reqGetReport).hits s.decodeWord = false) ↔
      s.inp.rst = false ∧ s.inp.ctlValid = true ∧
        ¬ (s.inp.ctlBmrt.extractLsb' 5 2 = 0b01#2 ∧ s.inp.ctlBreq = s.params.reqGetReport) := by
  rw [← Bool.not_eq_true, rowGetReport_hits_decodeWord, rowCtl_hits_decodeWord]
  tauto

end

/-- Settles O19: each operation is in the cycle exactly when its row hits the decode word, and a row's hit is
both its mask and match and its condition on S_n and I_n. -/
theorem operationsAreTheMatchedRows : Obligations.OperationsAreTheMatchedRows := by
  refine ⟨fun s => ⟨?_, ?_, ?_, ?_, ?_, ?_, ?_, fun b r => ?_, ?_, fun b r => ?_⟩, by decide⟩
  · exact (reset_mem_operations s).trans (row_hits_iff rowReset _)
  · exact (reset_mem_operations s).trans (rowReset_hits_decodeWord s)
  · exact (tick_mem_operations s).trans (row_hits_iff rowTick _)
  · exact (tick_mem_operations s).trans (rowTick_hits_decodeWord s)
  · exact (trySend_mem_operations s).trans (row_hits_iff rowTrySend _)
  · exact (trySend_mem_operations s).trans (rowTrySend_hits_decodeWord s)
  · exact (exists_getReport_mem_operations s).trans (row_hits_iff (rowGetReport _) _)
  · rw [getReport_mem_operations, rowGetReport_hits_decodeWord]
    simp only [and_assoc]
  · exact (exists_ctlUnhandled_mem_operations s).trans
      (and_congr (row_hits_iff rowCtl _) (not_congr (row_hits_iff (rowGetReport _) _)))
  · rw [ctlUnhandled_mem_operations, rowCtl_only_hits_decodeWord]
    simp only [and_assoc]

/-! ### The lengths (R50) -/

/-- The outputs of a cycle that handles a query (R90). -/
theorem cycleOutputs_of_handled {p : Params} {i : Inputs} (h : handled p i = true) (r : Regs) :
    cycleOutputs p r i =
      { intValid := offered r i, intData := memRead r, intLen := 3, ctlRespLen := 3,
        ctlRespData := memRead r } := by
  rw [cycleOutputs_eq, if_pos h, if_pos h]

/-- The outputs of a cycle that handles none (R91, R92). -/
theorem cycleOutputs_of_not_handled {p : Params} {i : Inputs} (h : handled p i = false) (r : Regs) :
    cycleOutputs p r i =
      { intValid := offered r i, intData := memRead r, intLen := 3, ctlRespLen := 0,
        ctlRespData := 0x000000 } := by
  have hn : ¬ handled p i = true := by simp [h]
  rw [cycleOutputs_eq, if_neg hn, if_neg hn]

/-- No query, or reset, and none is handled (R89). -/
theorem handled_eq_false {p : Params} {i : Inputs} (h : i.ctlValid = false ∨ i.rst = true) :
    handled p i = false := by
  rw [handled, isGet]
  rcases h with h | h <;> simp [h]

/-- Settles O50, by whether the cycle handles a query. -/
theorem controlAnswerOfACycle : Obligations.ControlAnswerOfACycle := by
  intro s
  refine ⟨_, step_eq s, ?_⟩
  rw [stepState_out]
  cases h : handled s.params s.sampled with
  | true =>
    rw [cycleOutputs_of_handled h]
    have hq : ¬ (s.sampled.ctlValid = false ∨ s.sampled.rst = true) := fun hq => by
      simp [handled_eq_false hq] at h
    simp [hq, memRead_eq]
  | false =>
    rw [cycleOutputs_of_not_handled h]
    simp

/-! ### The report (R49) -/

/-- Each bit of the buffer on a port (R31): byte 0 lowest, then X, then Y. -/
theorem memRead_bit (r : Regs) (k : Nat) :
    (memRead r).getLsbD k =
      if k < 8 then false else if k - 8 < 8 then r.rbXQ.getLsbD (k - 8)
      else r.rbYQ.getLsbD (k - 8 - 8) := by
  have h : (memRead r).getLsbD k =
      BitVec.getLsbD (w := 8 + 8 + 8) (r.rbYQ ++ r.rbXQ ++ 0x00#8) k := rfl
  rw [h, BitVec.getLsbD_append, BitVec.getLsbD_append, BitVec.getLsbD_zero]

/-- Byte i of the buffer as a port carries it (R31). -/
theorem reportByte_memRead (r : Regs) (a : Fin 3) : reportByte (memRead r) a = rbByte r a := by
  apply BitVec.eq_of_getLsbD_eq
  intro k hk
  rw [reportByte, BitVec.getLsbD_extractLsb', memRead_bit]
  match a with
  | 0 => simp [hk, rbByte]
  | 1 => simp [hk, rbByte]
  | 2 =>
    have above : ¬ 16 + k < 8 := by omega
    have offset : 16 + k - 8 = 8 + k := by omega
    simp [hk, rbByte, above, offset]

/-- A control answer of length 3 carries the buffer (R50, R90). -/
theorem ctlRespData_of_ctlRespLen {p : Params} {r : Regs} {i : Inputs}
    (h : (cycleOutputs p r i).ctlRespLen = 3) : (cycleOutputs p r i).ctlRespData = memRead r := by
  cases hh : handled p i with
  | true => rw [cycleOutputs_of_handled hh]
  | false => rw [cycleOutputs_of_not_handled hh] at h; cases h

/-- The layout of the buffer on a port (R49): byte 0 carries the buttons and the reserved bits. -/
theorem report_layout {d : Report} {r : Regs} (h : ∀ a, reportByte d a = rbByte r a) :
    reportButtonA d = false ∧ reportButtonB d = false ∧ reportButtonC d = false ∧
      reportReserved d = 0 ∧ d.extractLsb 15 8 = r.rbXQ ∧ d.extractLsb 23 16 = r.rbYQ := by
  have h0 : d.extractLsb' 0 8 = 0x00#8 := h 0
  have bit0 (k : Nat) (hk : k < 8) : d.getLsbD k = false := by
    have := congrArg (·.getLsbD k) h0
    simpa [hk] using this
  have hres : reportReserved d = 0 := by
    apply BitVec.eq_of_getLsbD_eq
    intro k hk
    simp [reportReserved, hk, bit0 (3 + k) (by omega)]
  exact ⟨bit0 0 (by decide), bit0 1 (by decide), bit0 2 (by decide), hres, h 1, h 2⟩

/-- Settles O55: each port carries `MemRead(0, 3)`, whose bytes are the buffer's. -/
theorem reportLayoutOnThePorts : Obligations.ReportLayoutOnThePorts := by
  intro s
  refine ⟨_, step_eq s, fun d hd => ?_⟩
  have hd : d = memRead s.regs := by
    rcases hd with hd | ⟨hl, hd⟩
    · rw [hd, stepState_out, cycleOutputs_eq]
    · rw [hd]; exact ctlRespData_of_ctlRespLen hl
  have hb : ∀ a, reportByte d a = rbByte s.regs a := by
    rw [hd]; exact reportByte_memRead s.regs
  obtain ⟨hA, hB, hC, hR, hX, hY⟩ := report_layout hb
  exact ⟨hA, hB, hC, hR, hX, hY, hb⟩

/-! ### The phase word (R45) -/

/-- The quadrant is S and M (R45). -/
theorem phaseQuadrant_eq (p : Byte) :
    phaseQuadrant p = BitVec.ofBool (phaseSign p) ++ BitVec.ofBool (phaseMirror p) := by
  revert p
  decide

/-- A phase value is the assembly of its fields (R45). -/
theorem encodePhase_fields (p : Byte) : encodePhase (phaseQuadrant p) (phaseIdx p) = p := by
  revert p
  decide

/-- Each phase value is the encoding of the arm it selects (R45, R55). -/
theorem encode_decodePhase (lane : Lane) (p : Byte) :
    encode (decodePhase lane p) = .phase lane p := by
  have h : encode (decodePhase lane p) =
      .phase lane (encodePhase (phaseQuadrant p) (phaseIdx p)) := by
    rw [decodePhase_quadrant, phaseQuadrant_eq]
    cases phaseSign p <;> cases phaseMirror p <;> rfl
  rw [h, encodePhase_fields]

/-- Settles O15: the fields are the phase's own bits, and every phase value encodes its arm. -/
theorem phaseWordLayout : Obligations.PhaseWordLayout := fun p =>
  ⟨BitVec.getLsbD_eq_getElem (by decide), BitVec.getLsbD_eq_getElem (by decide), rfl, rfl,
    encode_decodePhase .x p, encode_decodePhase .y p⟩

/-! ### The folded index (R46) -/

/-- 63 − IDX is the complement of IDX (R46). -/
theorem mirrorIdx_eq_not (idx : Idx) : mirrorIdx idx = ~~~idx :=
  BitVec.allOnes_sub_eq_not idx

/-- 63 − IDX borrows nothing (R46). -/
theorem mirrorIdx_toNat (idx : Idx) : (mirrorIdx idx).toNat = 63 - idx.toNat := by
  rw [mirrorIdx_eq_not, BitVec.toNat_not]

/-- The folded index as an exclusive or with six copies of M (R46). -/
theorem foldedIdx_eq_xor (p : Byte) :
    foldedIdx p = phaseIdx p ^^^ (if phaseMirror p then 0b111111#6 else 0b000000#6) := by
  rw [foldedIdx]
  split
  · rw [mirrorIdx_eq_not]; exact (BitVec.xor_allOnes).symm
  · exact (BitVec.xor_zero).symm

/-- The source's property of the folded index, with IDX as the phase and 63 (R46). -/
theorem foldedIdx_toNat_and (p : Byte) :
    (foldedIdx p).toNat = if phaseMirror p then 63 - (p &&& 63).toNat else (p &&& 63).toNat := by
  have h : (p &&& 63).toNat = p.toNat % 64 := by
    rw [BitVec.toNat_and]; exact Nat.and_two_pow_sub_one_eq_mod p.toNat 6
  rw [h, foldedIdx_toNat]

/-- Settles O16, from 63 − IDX being the complement of IDX. -/
theorem foldedIndexAssembly : Obligations.FoldedIndexAssembly := by
  refine ⟨fun idx => ⟨by omega, mirrorIdx_toNat idx, mirrorIdx_eq_not idx⟩, fun p => ?_⟩
  have hM : p[6] = phaseMirror p := (BitVec.getLsbD_eq_getElem (by decide)).symm
  rw [hM]
  refine ⟨rfl, foldedIdx_eq_xor p, by omega, ?_⟩
  rw [foldedIdx_toNat_and]
  split <;> rfl

/-! ### The stimulus lines (R60) -/

/-- In pulse mode a line gives its inputs whatever the level is (R59). -/
theorem lineInputs_pulse {p : Params} (h : p.tickSync = .pulse) (level : Bool)
    (items : List StimItem) :
    lineInputs p level items =
      { items.foldl (StimItem.apply p) Inputs.idle with tick := decide (StimItem.tk ∈ items) } := by
  rw [lineInputs, lineTick, h]

/-- In pulse mode the lines of a program give their inputs one by one (R59). -/
theorem assembleLines_pulse {p : Params} (h : p.tickSync = .pulse) (level : Bool)
    (lines : List (List StimItem)) :
    assembleLines p level lines = lines.map (lineInputs p false) := by
  induction lines generalizing level with
  | nil => rfl
  | cons items rest ih =>
    rw [assembleLines, ih, List.map_cons, lineInputs_pulse h, lineInputs_pulse h]

/-- A program of plain lines is its lines. -/
theorem flatMap_expand_line (lines : List (List StimItem)) :
    (lines.map StimSource.line).flatMap StimSource.expand = lines := by
  induction lines with
  | nil => rfl
  | cons items rest ih => rw [List.map_cons, List.flatMap_cons, ih]; rfl

/-- The words of a program of plain lines in pulse mode (R58, R59). -/
theorem encode_assemble_pulse {p : Params} (h : p.tickSync = .pulse)
    (lines : List (List StimItem)) :
    (assemble p (lines.map .line)).map encodeCiw =
      lines.map fun items => encodeCiw (lineInputs p false items) := by
  rw [assemble, flatMap_expand_line, assembleLines_pulse h, List.map_map]
  rfl

/-- Settles O24: in pulse mode each line gives its word by itself. -/
theorem stimulusLinesEncode : Obligations.StimulusLinesEncode := by
  refine ⟨fun n => ⟨rfl, rfl, rfl, rfl⟩, fun p hp hreq => ?_⟩
  refine (encode_assemble_pulse hp
    [[.rst], [.tk], [.rdy], [.tk, .rdy], [.get], [.get, .rdy], []]).trans ?_
  simp only [List.map, lineInputs_pulse hp, List.foldl, StimItem.apply, hreq]
  decide

end Sys2Proof.Machine
end

section
/-! PROOFS. The mapper (40_mapper): MAP's pseudocode R61, the scaling before the sign R62, and the arms MAP_Q0 R65
and MAP_Q2 R67, which mirror nothing. -/

namespace Sys2Proof.Machine

open Sys2Proof

/-! ### The table (10_state R24) -/

/-- The table never falls between two entries, however far apart (R24 (c)). -/
theorem qwt_le_qwt {p : Params} (hp : p.wf) {i j : Nat} (hij : i ≤ j) (hj : j < 64) :
    p.qwt[i] ≤ p.qwt[j] := by
  obtain ⟨-, -, hrise⟩ := hp
  induction j, hij using Nat.le_induction with
  | base => exact BitVec.le_refl _
  | succ j _ ih => exact BitVec.le_trans (ih (by omega)) (hrise ⟨j, by omega⟩)

theorem qwtRead_first {p : Params} (hp : p.wf) : qwtRead p 0 = 0x00 := hp.1

theorem qwtRead_last {p : Params} (hp : p.wf) : qwtRead p 63 = 0x7F := hp.2.1

/-- Entry 63 is the table's greatest (R24). -/
theorem qwtRead_le {p : Params} (hp : p.wf) (j : Idx) : qwtRead p j ≤ 0x7F := by
  rw [← qwtRead_last hp]
  exact qwt_le_qwt hp (j := 63) (by omega) (by decide)

/-! ### Magnitudes and signed bytes (00_scope R10, 30_encoding R48) -/

/-- The shift divides the unsigned magnitude by 16 (R48). -/
theorem scale_toNat (mag : Byte) : (scale mag).toNat = mag.toNat / 16 := by
  rw [scale, BitVec.toNat_ushiftRight, Nat.shiftRight_eq_div_pow]

/-- A scaled magnitude of an admissible table is at most 7 (R48). -/
theorem scale_qwtRead_le_seven {p : Params} (hp : p.wf) (j : Idx) :
    (scale (qwtRead p j)).toNat ≤ 7 := by
  have hle : (qwtRead p j).toNat ≤ 0x7F := qwtRead_le hp j
  rw [scale_toNat]
  omega

theorem neg8_toNat (v : Byte) : (neg8 v).toNat = (256 - v.toNat) % 256 :=
  BitVec.toNat_ofNat ..

/-- Negating a magnitude of at most 7: 0 stays 0, any other is in 0xF9 to 0xFF (R67). -/
theorem neg8_eq_zero_or_ge {v : Byte} (hv : v.toNat ≤ 7) :
    neg8 v = 0x00 ∨ 0xF9 ≤ (neg8 v).toNat := by
  rcases Nat.eq_zero_or_pos v.toNat with h0 | hpos
  · left
    rw [BitVec.toNat_eq, neg8_toNat, h0]
    rfl
  · right
    rw [neg8_toNat]
    omega

/-- A signed byte by its unsigned value (R10). -/
theorem signedValue_eq (v : Byte) :
    signedValue v = if 128 ≤ v.toNat then (v.toNat : Int) - 256 else v.toNat := by
  have hbit : v.getLsbD 7 = decide (128 ≤ v.toNat) := BitVec.msb_eq_decide v
  rw [signedValue, hbit]
  simp only [decide_eq_true_eq]

/-- The sign selector negates the integer a magnitude below 128 denotes (R10, R62). -/
theorem signedValue_applySign (sign : Bool) {v : Byte} (hv : v.toNat < 128) :
    signedValue (applySign sign v) = if sign then -(v.toNat : Int) else v.toNat := by
  cases sign with
  | false =>
    rw [applySign, if_neg Bool.false_ne_true, if_neg Bool.false_ne_true, signedValue_eq,
      if_neg (by omega)]
  | true =>
    rw [applySign, if_pos rfl, if_pos rfl, signedValue_eq, neg8_toNat]
    split <;> omega

/-! ### The quadrants (30_encoding R45, R55) -/

theorem phaseSign_eq (ph : Byte) : phaseSign ph = ph[7] := BitVec.getLsbD_eq_getElem (by decide)

theorem phaseMirror_eq (ph : Byte) : phaseMirror ph = ph[6] := BitVec.getLsbD_eq_getElem (by decide)

/-- MAP of a phase is the result of the arm the phase selects (R61, R65 to R68). -/
theorem mapPhase_quadrant (p : Params) (ph : Byte) :
    mapPhase p ph =
      if phaseSign ph then
        (if phaseMirror ph then armQ3 p (phaseIdx ph) else armQ2 p (phaseIdx ph))
      else (if phaseMirror ph then armQ1 p (phaseIdx ph) else armQ0 p (phaseIdx ph)) := by
  rw [mapPhase, foldedIdx]
  cases phaseSign ph <;> cases phaseMirror ph <;> rfl

/-- The mask 0xC0 leaves the two selectors, whatever quadrant it is matched with (R55). -/
theorem selectors_of_mask {q : BitVec 2} {ph : Byte} (h : ph &&& 0xC0 = encodePhase q 0) :
    phaseSign ph = q[1] ∧ phaseMirror ph = q[0] := by
  revert q ph
  decide

section
variable (p : Params) {ph : Byte}

/-- A phase with bits 7:6 = 00 selects MAP_Q0, and MAP is the arm's result (R55, R65). -/
theorem q0_of_mask (h : ph &&& 0xC0 = 0x00) :
    (∀ lane, decodePhase lane ph = .mapQ0 lane (phaseIdx ph)) ∧
      mapPhase p ph = armQ0 p (phaseIdx ph) := by
  obtain ⟨hS, hM⟩ : phaseSign ph = false ∧ phaseMirror ph = false :=
    selectors_of_mask (q := 0b00#2) h
  simp [decodePhase_quadrant, mapPhase_quadrant, hS, hM]

/-- A phase with bits 7:6 = 10 selects MAP_Q2, and MAP is the arm's result (R55, R67). -/
theorem q2_of_mask (h : ph &&& 0xC0 = 0x80) :
    (∀ lane, decodePhase lane ph = .mapQ2 lane (phaseIdx ph)) ∧
      mapPhase p ph = armQ2 p (phaseIdx ph) := by
  obtain ⟨hS, hM⟩ : phaseSign ph = true ∧ phaseMirror ph = false :=
    selectors_of_mask (q := 0b10#2) h
  simp [decodePhase_quadrant, mapPhase_quadrant, hS, hM]

end

/-! ### The arms -/

/-- MAP_Q0 drives its lane and nothing else (R65). -/
theorem exec_mapQ0 (lane : Lane) (idx : Idx) (s : State) :
    exec (.mapQ0 lane idx) s = .next (s.driveLane lane (s.params.qwt[idx.toNat] >>> 4)) :=
  exec_effect ..

/-- MAP_Q2 drives its lane, with the negated result, and nothing else (R67). -/
theorem exec_mapQ2 (lane : Lane) (idx : Idx) (s : State) :
    exec (.mapQ2 lane idx) s = .next (s.driveLane lane (-(s.params.qwt[idx.toNat] >>> 4))) := by
  rw [← neg8_eq]
  exact exec_effect ..

/-- Settles O26: the selectors are the phase's bits, and neg8 is reduced modulo 256 already. -/
theorem mapFollowsItsPseudocode : Obligations.MapFollowsItsPseudocode := by
  intro p ph idx j v
  have hj : foldedIdx ph = j := by rw [foldedIdx, phaseMirror_eq]; rfl
  have hneg : neg8 v = BitVec.ofNat 8 ((256 - v.toNat) % 256) := by
    rw [BitVec.toNat_eq, neg8_toNat, BitVec.toNat_ofNat, Nat.mod_mod]
  rw [mapPhase, applySign, phaseSign_eq, hj, ← hneg]
  rfl

/-- Settles O27: a shifted magnitude is below 128, so the sign applied to it negates its integer. -/
theorem scalingComesBeforeTheSign : Obligations.ScalingComesBeforeTheSign := by
  refine ⟨fun p ph => ?_, by decide, by decide⟩
  have hlt : (scale (qwtRead p (foldedIdx ph))).toNat < 128 := by rw [scale_toNat]; omega
  rw [mapPhase, signedValue_applySign _ hlt, scale_toNat, phaseSign_eq]

/-- Settles O28: the arm's effect on either lane, then MAP by the arm its quadrant selects. -/
theorem mapQ0RisingPositive : Obligations.MapQ0RisingPositive := by
  refine ⟨fun s lane idx => ?_, fun p lane ph h => ?_, fun p hp => ⟨?_, ?_⟩, fun p idx h => ?_⟩
  · rw [exec_mapQ0]
    cases lane <;> rfl
  · obtain ⟨hdec, hmap⟩ := q0_of_mask p h
    refine ⟨hdec lane, hmap, fun hp => ?_⟩
    rw [hmap]
    exact scale_qwtRead_le_seven hp _
  · calc
      mapPhase p 0x00 = scale (qwtRead p 0) := (q0_of_mask p (by decide)).2
      _ = 0x00 := by rw [qwtRead_first hp]; rfl
  · calc
      mapPhase p 0x3F = scale (qwtRead p 63) := (q0_of_mask p (by decide)).2
      _ = 0x07 := by rw [qwtRead_last hp]; rfl
  · have hlt : (qwtRead p idx).toNat < 16 := h
    rw [BitVec.toNat_eq]
    exact (scale_toNat _).trans (Nat.div_eq_of_lt hlt)

/-- Settles O30: as for MAP_Q0, with the shifted magnitude negated. -/
theorem mapQ2FallingNegative : Obligations.MapQ2FallingNegative := by
  refine ⟨fun s lane idx => ?_, fun p lane ph h => ?_, by decide, fun p hp => ⟨?_, ?_⟩⟩
  · rw [exec_mapQ2]
    cases lane <;> rfl
  · obtain ⟨hdec, hmap⟩ := q2_of_mask p h
    refine ⟨hdec lane, hmap, fun hp => ?_⟩
    rw [hmap]
    exact neg8_eq_zero_or_ge (scale_qwtRead_le_seven hp _)
  · calc
      mapPhase p 0x80 = neg8 (scale (qwtRead p 0)) := (q2_of_mask p (by decide)).2
      _ = 0x00 := by rw [qwtRead_first hp]; rfl
  · calc
      mapPhase p 0xBF = neg8 (scale (qwtRead p 63)) := (q2_of_mask p (by decide)).2
      _ = 0xF9 := by rw [qwtRead_last hp]; rfl

end Sys2Proof.Machine
end

section
/-! PROOFS. The Generator (41_generator): the TICK cycle R76 and the toggle-mode synchroniser R73. -/

namespace Sys2Proof.Machine

open Sys2Proof

/-! ### The registers after a cycle -/

section
variable {p : Params} {r : Regs} {i : Inputs}

/-- A reset cycle loads the reset values, whatever the registers are (70_reset R109). -/
theorem stepRegs_of_rst (hr : i.rst = true) : stepRegs p r i = loadReset p := by
  rw [stepRegs, if_pos hr]

/-- A TICK cycle outside reset leaves the TICK's writes over the shifted synchroniser: the flag, the channel
and the query have no part in it (R76, R85). -/
theorem stepRegs_of_tick (hr : i.rst = false) (ht : tickEff p r i = true) :
    stepRegs p r i = tickWrites p r (shiftSync p r i) := by
  rw [tickWrites_eq]
  simp [stepRegs, hr, ht]

/-- Outside reset the synchroniser's stages are those of its shift, TICK or not (R73). -/
theorem stepRegs_syncQ (hr : i.rst = false) :
    (stepRegs p r i).syncQ = (shiftSync p r i).syncQ := by
  rw [stepRegs, hr]; rfl

/-- Outside reset the edge register is that of the synchroniser's shift, TICK or not (R73). -/
theorem stepRegs_edgeQ (hr : i.rst = false) :
    (stepRegs p r i).edgeQ = (shiftSync p r i).edgeQ := by
  rw [stepRegs, hr]; rfl

/-- Every cycle keeps the synchroniser's shape (10_state R16, R21). -/
theorem stepRegs_shape (h : SyncShape p r) : SyncShape p (stepRegs p r i) := by
  cases hr : i.rst with
  | true => rw [stepRegs_of_rst hr]; exact loadReset_shape p
  | false =>
    rw [SyncShape, stepRegs_syncQ hr, stepRegs_edgeQ hr]
    exact shiftSync_shape h i

end

/-! ### The TICK cycle (R76) -/

/-- A decode word selects TICK exactly when it hits TICK's row (30_encoding R53). -/
theorem tick_mem_decodeDw (req : Byte) (w : DecodeWord) :
    .tick ∈ decodeDw req w ↔ rowTick.hits w = true := by
  simp [mem_decodeDw]

/-- A phase with bits 7:6 = 01 selects MAP_Q1, and MAP is the arm's result (R55, R66). -/
theorem q1_of_mask (p : Params) {ph : Byte} (h : ph &&& 0xC0 = 0x40) :
    (∀ lane, decodePhase lane ph = .mapQ1 lane (phaseIdx ph)) ∧
      mapPhase p ph = armQ1 p (phaseIdx ph) := by
  obtain ⟨hS, hM⟩ : phaseSign ph = false ∧ phaseMirror ph = true :=
    selectors_of_mask (q := 0b01#2) h
  simp [decodePhase_quadrant, mapPhase_quadrant, hS, hM]

/-- The first zero crossing: the table's entry 0 (R65). -/
theorem mapPhase_0x00 {p : Params} (hp : p.wf) : mapPhase p 0x00 = 0x00 := by
  obtain ⟨-, -, ends, -⟩ := mapQ0RisingPositive
  exact (ends p hp).1

/-- The peak's second sample: IDX 0 mirrors to the table's entry 63 (R66). -/
theorem mapPhase_0x40 {p : Params} (hp : p.wf) : mapPhase p 0x40 = 0x07 :=
  calc
    mapPhase p 0x40 = scale (qwtRead p 63) := (q1_of_mask p (by decide)).2
    _ = 0x07 := by rw [qwtRead_last hp]; rfl

/-- The second zero crossing: the table's entry 0 negated is no negative zero (R67). -/
theorem mapPhase_0x80 {p : Params} (hp : p.wf) : mapPhase p 0x80 = 0x00 := by
  obtain ⟨-, -, -, ends⟩ := mapQ2FallingNegative
  exact (ends p hp).1

/-- Settles O36: TICK's row is its encoding; TICK's writes are a function of the parameters and the phase, and a
TICK cycle leaves them; at 0xFF and 0x3F both lanes meet a zero crossing and the peak. -/
theorem tickCycleFollowsItsRule : Obligations.TickCycleFollowsItsRule := by
  refine ⟨fun req w => ?_, fun s u hparams hphase => ?_, fun s hr ht => ?_⟩
  · exact (tick_mem_decodeDw req w).trans (row_hits_iff rowTick w)
  · refine ⟨_, _, exec_effect .tick s, exec_effect .tick u, ?_⟩
    simp [effect, sampledPhase, hparams, hphase]
  · refine ⟨_, step_eq s, ?_⟩
    rw [stepState_regs, stepRegs_of_tick hr ht]
    refine ⟨tickWrites_phaseQ .., tickWrites_rbXQ .., tickWrites_rbYQ .., tickWrites_flagQ .., rfl,
      fun hp h => ?_, fun hp h => ?_⟩
    · have hx : sampledPhase s.regs = 0x00 := by rw [sampledPhase, h]; rfl
      rw [tickWrites_phaseQ, tickWrites_rbXQ, tickWrites_rbYQ, hx]
      exact ⟨rfl, mapPhase_0x00 hp, mapPhase_0x40 hp⟩
    · have hx : sampledPhase s.regs = 0x40 := by rw [sampledPhase, h]; rfl
      rw [tickWrites_phaseQ, tickWrites_rbXQ, tickWrites_rbYQ, hx]
      exact ⟨rfl, mapPhase_0x40 hp, mapPhase_0x80 hp⟩

/-! ### Toggle mode (R73) -/

section
variable {p : Params} {r : Regs} {e : Nat}

theorem lastStage_toggle (h : p.tickSync = .toggle e) :
    lastStage p r = r.syncQ.getD (e + 1) false := by
  rw [lastStage, h]; rfl

theorem tickEff_toggle (h : p.tickSync = .toggle e) (i : Inputs) :
    tickEff p r i = (r.syncQ.getD (e + 1) false ^^ r.edgeQ) := by
  rw [← lastStage_toggle h, tickEff, h]

/-- With every stage present the last stage is an entry of the chain. -/
theorem getElem?_lastStage (h : p.tickSync = .toggle e) (hl : r.syncQ.length = e + 2) :
    r.syncQ[e + 1]? = some (lastStage p r) := by
  have hlt : e + 1 < r.syncQ.length := by omega
  rw [lastStage_toggle h, List.getD_eq_getElem _ _ hlt, List.getElem?_eq_getElem hlt]

/-- The number of stages is the toggle-mode half of the synchroniser's shape (10_state R16). -/
theorem syncShape_toggle (h : p.tickSync = .toggle e) :
    SyncShape p r ↔ r.syncQ.length = e + 2 := by
  simp [SyncShape, h, TickSync.stages]

/-- Stage 0 takes `tick_i`. -/
theorem shiftSync_stage_zero (h : p.tickSync = .toggle e) (i : Inputs) :
    (shiftSync p r i).syncQ[0]? = some i.tick := by
  rw [shiftSync_toggle h]; rfl

/-- Stage k + 1 takes stage k. -/
theorem shiftSync_stage_succ (h : p.tickSync = .toggle e) (i : Inputs) {k : Nat} (hk : k < e + 1) :
    (shiftSync p r i).syncQ[k + 1]? = r.syncQ[k]? := by
  rw [shiftSync_toggle h, List.getElem?_take_of_lt (by omega), List.getElem?_cons_succ]

/-- The edge register takes the last stage. -/
theorem shiftSync_edgeQ (h : p.tickSync = .toggle e) (i : Inputs) :
    (shiftSync p r i).edgeQ = lastStage p r := by
  rw [shiftSync_toggle h]

end

/-- Settles O38: outside reset the chain is its shift, stage by stage; in reset it is the reset values. -/
theorem toggleModeShifts : Obligations.ToggleModeShifts := by
  intro s e h hl
  refine ⟨tickEff_toggle h, _, step_eq s, ?_, fun hr => ?_, fun hr => ?_⟩
  · exact (syncShape_toggle h).1 (stepRegs_shape ((syncShape_toggle h).2 hl))
  · rw [stepState_regs, stepRegs_syncQ hr, stepRegs_edgeQ hr]
    refine ⟨shiftSync_stage_zero h _, fun k hk hke => ?_, ?_⟩
    · obtain ⟨k, rfl⟩ := Nat.exists_eq_add_of_le' hk
      exact shiftSync_stage_succ h _ (by omega)
    · rw [shiftSync_edgeQ h]
      exact getElem?_lastStage h hl
  · rw [stepState_regs, stepRegs_of_rst hr]
    exact ⟨fun b hb => List.eq_of_mem_replicate hb, rfl⟩

end Sys2Proof.Machine
end

section
/-! PROOFS. The Dispatcher (42_dispatcher): the offer and the data R81, R82 and the ready flag's arbitration R85. -/

namespace Sys2Proof.Machine

open Sys2Proof

/-! ### The interrupt channel's ports (R81, R82) -/

section
variable (p : Params) (r : Regs) (i : Inputs)

@[simp] theorem cycleOutputs_intValid : (cycleOutputs p r i).intValid = offered r i := rfl
@[simp] theorem cycleOutputs_intData : (cycleOutputs p r i).intData = memRead r := rfl
@[simp] theorem cycleOutputs_intLen : (cycleOutputs p r i).intLen = 3 := rfl

end

/-- Settles O43: a step drives the cycle's outputs, and the channel's are these in every cycle. -/
theorem offerAndDataInEveryCycle : Obligations.OfferAndDataInEveryCycle := by
  intro s
  refine ⟨_, step_eq s, ?_⟩
  rw [stepState_out, cycleOutputs_intValid, cycleOutputs_intData, cycleOutputs_intLen]
  exact ⟨rfl, memRead_eq s.regs, rfl⟩

/-! ### The ready flag's arbitration (R85) -/

section
variable {p : Params} {r : Regs} {i : Inputs}

/-- The flag after a cycle outside reset: a TICK sets it, and a transfer without a TICK clears it. -/
theorem stepRegs_flagQ (hr : i.rst = false) :
    (stepRegs p r i).flagQ = (tickEff p r i || (r.flagQ && !xfer r i)) := by
  rw [stepRegs, xfer, offered, hr]
  cases r.flagQ <;> simp

/-- Outside reset only a transfer clears the flag (R86). -/
theorem xfer_of_flagQ_falls (hr : i.rst = false) (hf : r.flagQ = true)
    (hn : (stepRegs p r i).flagQ = false) : xfer r i = true := by
  rw [stepRegs_flagQ hr, hf, Bool.or_eq_false_iff] at hn
  obtain ⟨-, hx⟩ := hn
  simpa using hx

/-- A flag that stands after a transfer is the TICK's: the claim took the older one. -/
theorem tickEff_of_xfer_of_flagQ (hr : i.rst = false) (hx : xfer r i = true)
    (hn : (stepRegs p r i).flagQ = true) : tickEff p r i = true := by
  simpa [stepRegs_flagQ hr, hx] using hn

/-- `xfer` is the handshake at the ports (R83). -/
theorem xfer_iff : xfer r i = true ↔ offered r i = true ∧ i.intReady = true := by
  rw [xfer, Bool.and_eq_true]

end

/-- Settles O44: the flag's equation, the TICK's writes beside the older buffer on the port, and the two
readings of the equation for a flag that falls and a flag that stands. -/
theorem readyFlagSetWinsOverClear : Obligations.ReadyFlagSetWinsOverClear := by
  intro s hr
  refine ⟨_, step_eq s, ?_⟩
  rw [stepState_regs, stepState_out, cycleOutputs_intValid, cycleOutputs_intData]
  refine ⟨stepRegs_flagQ hr, fun ht _ _ => ?_, fun hf hn => ?_, fun hv hi hn => ?_⟩
  · rw [stepRegs_of_tick hr ht]
    exact ⟨memRead_eq s.regs, tickWrites_flagQ .., tickWrites_rbXQ .., tickWrites_rbYQ ..⟩
  · exact xfer_iff.1 (xfer_of_flagQ_falls hr hf hn)
  · exact tickEff_of_xfer_of_flagQ hr (xfer_iff.2 ⟨hv, hi⟩) hn

end Sys2Proof.Machine
end

section
/-! PROOFS. The Control responder (43_control_query): the query decode R89. -/

namespace Sys2Proof.Machine

open Sys2Proof

/-! ### The query decode (R89) -/

/-- `get` holds exactly for a presented class request (R51) with the get-report code. -/
theorem isGet_iff (p : Params) (i : Inputs) :
    isGet p i = true ↔
      i.ctlValid = true ∧ i.ctlBmrt.extractLsb' 5 2 = 0b01#2 ∧ i.ctlBreq = p.reqGetReport := by
  rw [isGet_eq, Bool.and_eq_true, Bool.and_eq_true, beq_iff_eq, beq_iff_eq, and_assoc]

/-- Settles O51: the model's class test is the spec's on bits 6:5, and `handled` and `unhandled` are R89's
own formulas. -/
theorem queryDecode : Obligations.QueryDecode := by
  intro p i
  exact ⟨isGet_iff p i, rfl, rfl⟩

end Sys2Proof.Machine
end

section
/-! PROOFS. The cycle (44_cycle): the writers per register R95. -/

namespace Sys2Proof.Machine

open Sys2Proof

/-! ### What a cycle may write (R95) -/

section
variable {p : Params} {r : Regs} {i : Inputs}

/-- A cycle outside reset without a TICK leaves the shifted synchroniser with the claim's flag: the phase and
the buffer stand. -/
theorem stepRegs_of_no_tick (hr : i.rst = false) (ht : tickEff p r i = false) :
    stepRegs p r i = { shiftSync p r i with flagQ := r.flagQ && !xfer r i } := by
  have hflag : (stepRegs p r i).flagQ = (r.flagQ && !xfer r i) := by
    rw [stepRegs_flagQ hr, ht, Bool.false_or]
  rw [← hflag]
  ext <;> simp [stepRegs, hr, ht]

/-- Outside reset only a TICK raises the flag. -/
theorem tickEff_of_flagQ_rises (hr : i.rst = false) (hf : r.flagQ = false)
    (hn : (stepRegs p r i).flagQ = true) : tickEff p r i = true := by
  simpa [stepRegs_flagQ hr, hf] using hn

end

/-! ### What an operation may write (R95) -/

section
variable (s : State)

/-- The next state an operation answers is its effect. -/
theorem eq_effect_of_exec {i : Instr} {s t : State} (h : exec i s = .next t) : t = effect i s := by
  rw [exec_effect] at h
  exact (Host.Outcome.next.inj h).symm

/-- TICK leaves its writes over the D inputs it finds (R76). -/
theorem effect_tick_nxt : (effect .tick s).nxt = tickWrites s.params s.regs s.nxt :=
  rfl

/-- TRY_SEND's D inputs are those it finds, but for the flag (R84). -/
theorem effect_trySend_nxt :
    (effect .trySend s).nxt = { s.nxt with flagQ := (effect .trySend s).nxt.flagQ } := by
  rw [effect]
  split <;> rfl

/-- GET_REPORT writes no register (R90). -/
theorem effect_getReport_nxt (bmrt breq : Byte) :
    (effect (.getReport bmrt breq) s).nxt = s.nxt := by
  rw [effect]
  split <;> rfl

/-- CTL_UNHANDLED writes no register (R91). -/
theorem effect_ctlUnhandled_nxt (bmrt breq : Byte) :
    (effect (.ctlUnhandled bmrt breq) s).nxt = s.nxt := by
  rw [effect]
  split <;> rfl

end

/-- Settles O56: in a step, by the registers of a cycle with reset, without a TICK and with one; in an operation,
by its effect on the D inputs. -/
theorem writersPerRegister : Obligations.WritersPerRegister := by
  refine ⟨fun s => ⟨_, step_eq s, ?_⟩, fun s t h => ?_, fun s t h => ?_, fun s t bmrt breq h => ?_⟩
  · rw [stepState_regs]
    refine ⟨fun hr => ⟨fun ht => ?_, tickEff_of_flagQ_rises hr, xfer_of_flagQ_falls hr, fun ht => ?_,
      stepRegs_syncQ hr, stepRegs_edgeQ hr⟩, fun hr => ?_⟩
    · rw [stepRegs_of_no_tick hr ht]
      exact ⟨shiftSync_phaseQ .., shiftSync_rbXQ .., shiftSync_rbYQ ..⟩
    · rw [stepRegs_of_tick hr ht, tickWrites_flagQ]
    · rw [stepRegs_of_rst hr, loadReset_eq_atReset]
  · rw [eq_effect_of_exec h, effect_tick_nxt]
    exact ⟨tickWrites_syncQ .., tickWrites_edgeQ ..⟩
  · rw [eq_effect_of_exec h]
    exact effect_trySend_nxt s
  · rcases h with h | h
    · rw [eq_effect_of_exec h, effect_getReport_nxt]
    · rw [eq_effect_of_exec h, effect_ctlUnhandled_nxt]

end Sys2Proof.Machine
end

section
/-! PROOFS. Reset and the invariant of a run (10_state, 70_reset_and_hazards): RESET R109, the reset values R16 and
the invariant that reset establishes and every step keeps. -/

namespace Sys2Proof.Machine

open Sys2Proof

/-! ### The buffer (41_generator R76, 90_conflicts C2) -/

section
variable {p : Params} {r : Regs} {i : Inputs}

/-- A TICK's writes are the sample of the phase they write. -/
theorem tickWrites_holdsSample (d : Regs) : HoldsSample p (tickWrites p r d) :=
  ⟨tickWrites_rbXQ .., tickWrites_rbYQ ..⟩

/-- The reset values are the unflagged startup default. -/
theorem loadReset_holdsDefault : HoldsDefault p (loadReset p) :=
  ⟨rfl, rfl, rfl, rfl⟩

/-- A cycle outside reset without a TICK keeps the sample of the current phase: it writes neither. -/
theorem stepRegs_holdsSample (hr : i.rst = false) (ht : tickEff p r i = false)
    (h : HoldsSample p r) : HoldsSample p (stepRegs p r i) := by
  rw [stepRegs_of_no_tick hr ht]
  simpa [HoldsSample] using h

/-- A cycle outside reset without a TICK keeps the unflagged default: only a TICK raises the flag. -/
theorem stepRegs_holdsDefault (hr : i.rst = false) (ht : tickEff p r i = false)
    (h : HoldsDefault p r) : HoldsDefault p (stepRegs p r i) := by
  obtain ⟨hphase, hflag, hx, hy⟩ := h
  rw [stepRegs_of_no_tick hr ht]
  simp [HoldsDefault, hphase, hflag, hx, hy]

/-- Every cycle leaves the sample of the current phase or the unflagged default. -/
theorem stepRegs_buffer (h : HoldsSample p r ∨ HoldsDefault p r) :
    HoldsSample p (stepRegs p r i) ∨ HoldsDefault p (stepRegs p r i) := by
  cases hr : i.rst with
  | true => rw [stepRegs_of_rst hr]; exact .inr loadReset_holdsDefault
  | false =>
    cases ht : tickEff p r i with
    | true => rw [stepRegs_of_tick hr ht]; exact .inl (tickWrites_holdsSample _)
    | false => exact h.imp (stepRegs_holdsSample hr ht) (stepRegs_holdsDefault hr ht)

/-- The lengths a cycle drives are legal (30_encoding R50). -/
theorem cycleOutputs_lengthsLegal : LengthsLegal (cycleOutputs p r i) := by
  rw [cycleOutputs_eq]
  refine ⟨rfl, ?_⟩
  cases handled p i
  · exact .inl rfl
  · exact .inr rfl

end

/-! ### The invariant -/

/-- A step's state meets the invariant where its registers have the synchroniser's shape and a buffer of the
run: the step itself rests the D inputs at the registers and drives legal lengths. -/
theorem stepState_inv {s : State} (hp : s.params.wf)
    (hshape : SyncShape s.params (stepState s).regs)
    (hbuf : HoldsSample s.params (stepState s).regs ∨ HoldsDefault s.params (stepState s).regs) :
    (stepState s).Inv :=
  ⟨hp, hshape, rfl, hbuf, cycleOutputs_lengthsLegal⟩

/-- A step's answer is the state after the cycle. -/
theorem eq_stepState_of_step {s t : State} (h : step s = .next t) : t = stepState s := by
  rw [step_eq] at h
  exact (Host.Outcome.next.inj h).symm

/-- Settles O3: the step keeps the synchroniser's shape and leaves a buffer of the run, by whether the cycle is a
reset, a TICK or neither. -/
theorem stepKeepsInvariant : Obligations.StepKeepsInvariant := by
  intro s t hs h
  obtain ⟨hp, hshape, -, hbuf, -⟩ := hs
  rw [eq_stepState_of_step h]
  exact stepState_inv hp (stepRegs_shape hshape) (stepRegs_buffer hbuf)

/-- The registers after a reset cycle are the reset values (R109). -/
theorem stepState_regs_of_rst {s : State} (hr : s.sampled.rst = true) :
    (stepState s).regs = loadReset s.params := by
  rw [stepState_regs, stepRegs_of_rst hr]

/-- Settles O4: the reset values have the synchroniser's shape and hold the startup default, whatever the state
before held. -/
theorem resetCycleEstablishesInvariant : Obligations.ResetCycleEstablishesInvariant := by
  intro s hp hr
  refine ⟨_, step_eq s, stepState_inv hp ?_ ?_⟩
  · rw [stepState_regs_of_rst hr]; exact loadReset_shape s.params
  · rw [stepState_regs_of_rst hr]; exact .inr loadReset_holdsDefault

/-! ### The table at `State.reset` (R24, log entry 2) -/

/-- The running maximum never falls. -/
theorem freePeak_le_succ (j : Nat) : Config.freePeak j ≤ Config.freePeak (j + 1) := by
  rw [Config.freePeak]
  exact Nat.le_max_left ..

/-- An entry's value: 0 at the lower end, 127 at the upper end, and a bounded running maximum between them. -/
theorem tableEntry_toNat (j : Nat) :
    (Config.tableEntry j).toNat =
      if j = 0 then 0 else if 63 ≤ j then 127 else min 127 (Config.freePeak j) := by
  rw [Config.tableEntry]
  split
  · rfl
  · split
    · rfl
    · rw [BitVec.toNat_ofNat, Nat.mod_eq_of_lt (by omega)]

/-- The free table does not fall from one entry to the next. -/
theorem tableEntry_le_succ (j : Nat) : Config.tableEntry j ≤ Config.tableEntry (j + 1) := by
  have hpeak := freePeak_le_succ j
  rw [BitVec.le_def, tableEntry_toNat, tableEntry_toNat, if_neg (Nat.succ_ne_zero j)]
  split_ifs <;> omega

/-- The free table is admissible, whatever its free bytes are. -/
theorem configParams_wf : Config.params.wf := by
  have hentry (j : Nat) (hj : j < 64) : Config.params.qwt[j] = Config.tableEntry j :=
    Vector.getElem_ofFn hj
  refine ⟨hentry 0 _, hentry 63 _, fun j => ?_⟩
  rw [hentry j (by omega), hentry (j + 1) (by omega)]
  exact tableEntry_le_succ j

/-- Settles O1: `State.reset` is written with these values. -/
theorem resetStateHoldsResetValues : Obligations.ResetStateHoldsResetValues :=
  ⟨rfl, rfl, rfl, rfl, rfl, rfl, rfl, rfl⟩

/-- Settles O2: the free table is admissible, and the registers are the reset values. -/
theorem resetStateMeetsInvariant : Obligations.ResetStateMeetsInvariant :=
  ⟨configParams_wf, loadReset_shape Config.params, rfl, .inr loadReset_holdsDefault, rfl, .inl rfl⟩

/-! ### RESET (R109) -/

/-- Settles O5: RESET's effect, with the buffer written as its bytes. -/
theorem resetLoadsEveryRegister : Obligations.ResetLoadsEveryRegister :=
  exec_effect .reset

/-- A decode word selects RESET exactly when it hits RESET's row (30_encoding R53). -/
theorem reset_mem_decodeDw (req : Byte) (w : DecodeWord) :
    .reset ∈ decodeDw req w ↔ rowReset.hits w = true := by
  simp [mem_decodeDw]

/-- The outputs of a reset cycle: the offer and the control answer withdrawn, the data port the buffer (R109). -/
theorem cycleOutputs_of_rst {i : Inputs} (hr : i.rst = true) (p : Params) (r : Regs) :
    cycleOutputs p r i =
      { intValid := false, intData := memRead r, intLen := 3, ctlRespLen := 0,
        ctlRespData := 0x000000 } := by
  rw [cycleOutputs_of_not_handled (handled_eq_false (.inr hr)), offered, hr, Bool.not_true,
    Bool.and_false]

/-- Settles O6: RESET's row is its encoding; a reset cycle leaves the reset values and its outputs; a second one
leaves the same, and a query after it reads the default. -/
theorem resetCycleOverridesEverything : Obligations.ResetCycleOverridesEverything := by
  refine ⟨fun req w => ?_, fun s hr => ⟨operations_reset (s := s.openCycle) hr, _, step_eq s, ?_⟩⟩
  · exact (reset_mem_decodeDw req w).trans (row_hits_iff rowReset w)
  · refine ⟨stepState_regs_of_rst hr, rfl, rfl, cycleOutputs_of_rst hr .., fun hr' => ?_,
      fun hr' hget => ?_⟩
    · refine ⟨_, step_eq _, ?_⟩
      rw [stepState_regs_of_rst hr', stepState_regs_of_rst hr, stepState_params]
    · refine ⟨_, step_eq _, ?_⟩
      have hh : handled (stepState s).params (stepState s).sampled = true := by
        rw [handled, hget, hr']; rfl
      rw [stepState_out, cycleOutputs_of_handled hh, stepState_regs_of_rst hr]
      exact ⟨rfl, rfl⟩

end Sys2Proof.Machine
end

section
/-! PROOFS. Decode and encode (30_encoding): the round trips of the operations R53, R55 and of the input word R58,
the operations that may share a cycle R54, the arms of a TICK R55, and the stimulus level R59. -/

namespace Sys2Proof.Machine

open Sys2Proof Sys2Proof.Laws

/-! ### Decode of encode (R53, R55) -/

/-- What a decode word selects, by the rows it hits (R53). -/
theorem decodeDw_of_hits {req : Byte} {w : DecodeWord} {reset tick send get ctl : Bool}
    (h : dwHits req w = [reset, tick, send, get, ctl]) :
    decodeDw req w =
      (if reset then [.reset] else []) ++ (if tick then [.tick] else [])
        ++ (if send then [.trySend] else [])
        ++ (if get then [.getReport (dwBmrt w) (dwBreq w)]
          else if ctl then [.ctlUnhandled (dwBmrt w) (dwBreq w)] else []) := by
  simp only [dwHits, List.cons.injEq, and_true] at h
  obtain ⟨rfl, rfl, rfl, rfl, rfl⟩ := h
  rfl

/-- A control request's word carries its type byte (R52). -/
theorem dwBmrt_encodeCtl (bmrt breq : Byte) : dwBmrt (encodeCtl bmrt breq) = bmrt := by
  rw [encodeCtl_eq, dwBmrt_assembleDw]

/-- A control request's word carries its code byte (R52). -/
theorem dwBreq_encodeCtl (bmrt breq : Byte) : dwBreq (encodeCtl bmrt breq) = breq := by
  rw [encodeCtl_eq, dwBreq_assembleDw]

/-- A phase value carries the index it is made from (R45). -/
theorem phaseIdx_encodePhase (q : BitVec 2) (idx : Idx) : phaseIdx (encodePhase q idx) = idx := by
  apply BitVec.eq_of_getLsbD_eq
  intro k hk
  rw [phaseIdx, BitVec.getLsbD_extractLsb', encodePhase, BitVec.getLsbD_append]
  simp [hk]

/-- What an encoded arm decodes to, by the rows its phase value hits (R55). -/
theorem decode_encodePhase_of_hits {q : BitVec 2} {idx : Idx} {q0 q1 q2 : Bool}
    (h : phaseHits (encodePhase q idx) = [q0, q1, q2]) (req : Byte) (lane : Lane) :
    decode req (.phase lane (encodePhase q idx)) =
      [if q0 then .mapQ0 lane idx else if q1 then .mapQ1 lane idx
        else if q2 then .mapQ2 lane idx else .mapQ3 lane idx] := by
  simp only [phaseHits, List.cons.injEq, and_true] at h
  obtain ⟨rfl, rfl, rfl⟩ := h
  have hidx := phaseIdx_encodePhase q idx
  rw [phaseIdx] at hidx
  rw [decode, decodePhase, hidx]

/-- Settles O13, by the operation: its encoding hits its own row and carries its operands. -/
theorem decodeOfEncodeIsTheOperation : Obligations.DecodeOfEncodeIsTheOperation := by
  intro req i hi
  cases i with
  | reset => exact decodeDw_of_hits (EncodeHitsRow.reset req hi)
  | tick => exact decodeDw_of_hits (EncodeHitsRow.tick req hi)
  | trySend => exact decodeDw_of_hits (EncodeHitsRow.trySend req hi)
  | getReport bmrt breq =>
    have h := decodeDw_of_hits (EncodeHitsRow.getReport bmrt breq req hi)
    rwa [dwBmrt_encodeCtl, dwBreq_encodeCtl] at h
  | ctlUnhandled bmrt breq =>
    have h := decodeDw_of_hits (EncodeHitsRow.ctlUnhandled bmrt breq req hi)
    rwa [dwBmrt_encodeCtl, dwBreq_encodeCtl] at h
  | mapQ0 lane idx =>
    exact decode_encodePhase_of_hits (EncodeHitsRow.mapQ0 lane idx req hi) req lane
  | mapQ1 lane idx =>
    exact decode_encodePhase_of_hits (EncodeHitsRow.mapQ1 lane idx req hi) req lane
  | mapQ2 lane idx =>
    exact decode_encodePhase_of_hits (EncodeHitsRow.mapQ2 lane idx req hi) req lane
  | mapQ3 lane idx =>
    exact decode_encodePhase_of_hits (EncodeHitsRow.mapQ3 lane idx req hi) req lane

/-! ### The decoded operations (R53, R89) -/

/-- Every arm a phase value selects is well formed: no operand of an arm is restricted (R56). -/
theorem wf_of_isMapperArm {i : Instr} (h : isMapperArm i = true) (req : Byte) : i.wf req = true := by
  cases i with
  | mapQ0 | mapQ1 | mapQ2 | mapQ3 => rfl
  | reset | tick | trySend | getReport | ctlUnhandled => cases h

/-- Every operation a decode word selects is well formed: GET_REPORT's row tests the request bytes, and
CTL_UNHANDLED's applies only where that test fails (R53). -/
theorem wf_of_mem_decodeDw {req : Byte} {w : DecodeWord} {i : Instr} (h : i ∈ decodeDw req w) :
    i.wf req = true := by
  rcases (mem_decodeDw req w i).1 h with
    ⟨-, rfl⟩ | ⟨-, rfl⟩ | ⟨-, rfl⟩ | ⟨hget, rfl⟩ | ⟨⟨hctl, hget⟩, rfl⟩
  · rfl
  · rfl
  · rfl
  · rw [rowGetReport_hits, Bool.and_eq_true] at hget
    exact hget.2
  · rw [rowCtl_hits] at hctl
    rw [rowGetReport_hits, hctl, Bool.true_and] at hget
    rw [Instr.wf, hget]
    rfl

/-- Settles O14, by the kind of the code word. -/
theorem decodedOperationsAreWellFormed : Obligations.DecodedOperationsAreWellFormed := by
  intro req c i hi
  cases c with
  | dw w => exact wf_of_mem_decodeDw hi
  | phase lane p =>
    obtain rfl := List.mem_singleton.1 hi
    exact wf_of_isMapperArm (isMapperArm_decodePhase lane p) req

/-- Settles O23: each word decoded. -/
theorem specWordsDecode : Obligations.SpecWordsDecode := by
  unfold Obligations.SpecWordsDecode
  decide

/-! ### The Y phase (R47) -/

/-- 64 ahead flips M and carries it into S; IDX stands (R47). -/
theorem yPhase_bits (p : Byte) :
    yPhase p = BitVec.ofBool (phaseSign p ^^ phaseMirror p) ++ BitVec.ofBool (!phaseMirror p)
      ++ phaseIdx p := by
  revert p
  decide

/-- The phase 64 ahead is one quadrant further (R47, R55). -/
theorem phaseQuadrant_yPhase (p : Byte) : phaseQuadrant (yPhase p) = phaseQuadrant p + 1 := by
  revert p
  decide

/-- The phase 64 ahead has the same index (R47). -/
theorem phaseIdx_yPhase (p : Byte) : phaseIdx (yPhase p) = phaseIdx p := by
  revert p
  decide

/-- Settles O17: the fields of the phase 64 ahead, and TICK's writes, which map it for Y. -/
theorem yPhaseAssembly : Obligations.YPhaseAssembly := by
  refine ⟨fun p => ⟨BitVec.toNat_add .., ?_, phaseQuadrant_yPhase p, phaseIdx_yPhase p⟩,
    fun s => ⟨_, exec_effect .tick s, ?_⟩⟩
  · rw [yPhase_bits, phaseSign_eq, phaseMirror_eq]
    rfl
  · rw [effect_tick_nxt, tickWrites_rbYQ, tickWrites_phaseQ]

/-! ### The scaled magnitude (R48) -/

/-- The scaled magnitude is the entry's upper four bits. -/
theorem scale_eq_upper (mag : Byte) : scale mag = (mag.extractLsb' 4 4).setWidth 8 := by
  revert mag
  decide

/-- MAP under S as the phase's bit 7 (R48). -/
theorem mapPhase_eq_sign (p : Params) (ph : Byte) :
    mapPhase p ph =
      if ph[7] then neg8 (scale (qwtRead p (foldedIdx ph)))
      else scale (qwtRead p (foldedIdx ph)) := by
  rw [mapPhase, applySign, phaseSign_eq]

/-- Settles O18. -/
theorem scaledMagnitudeAssembly : Obligations.ScaledMagnitudeAssembly :=
  ⟨fun mag => ⟨rfl, scale_eq_upper mag⟩, fun _ hp => scale_qwtRead_le_seven hp, mapPhase_eq_sign⟩

/-! ### The arms of a TICK (R55) -/

/-- A cycle performs a TICK exactly under the TICK condition (R53, R94). -/
theorem tick_mem_operations_iff (s : State) :
    .tick ∈ s.operations ↔ tickOp s.params s.regs s.inp = true := by
  rw [tick_mem_operations, rowTick_hits_decodeWord, tickOp, Bool.and_eq_true, Bool.not_eq_true']

/-- In a TICK each lane selects the arm of its phase. -/
theorem mapperOps_of_tick {s : State} (h : .tick ∈ s.operations) :
    s.mapperOps =
      [decodePhase .x (sampledPhase s.regs), decodePhase .y (yPhase (sampledPhase s.regs))] := by
  rw [State.mapperOps, if_pos ((tick_mem_operations_iff s).1 h)]

/-- Without a TICK no lane selects an arm. -/
theorem mapperOps_of_no_tick {s : State} (h : .tick ∉ s.operations) : s.mapperOps = [] := by
  rw [State.mapperOps, if_neg (mt (tick_mem_operations_iff s).2 h)]

/-- The mask 0xC0 has a quadrant's match exactly when the selectors are the quadrant's bits. -/
theorem mask_eq_iff (q : BitVec 2) (p : Byte) :
    p &&& 0xC0 = encodePhase q 0 ↔ phaseSign p = q[1] ∧ phaseMirror p = q[0] := by
  refine ⟨selectors_of_mask, ?_⟩
  revert q p
  decide

/-- The two selectors decide the arm, and the arm shows the selectors (R45, R55). -/
theorem selectors_iff_arm (lane : Lane) (p : Byte) :
    (phaseSign p = false ∧ phaseMirror p = false ↔ decodePhase lane p = .mapQ0 lane (phaseIdx p)) ∧
    (phaseSign p = false ∧ phaseMirror p = true ↔ decodePhase lane p = .mapQ1 lane (phaseIdx p)) ∧
    (phaseSign p = true ∧ phaseMirror p = false ↔ decodePhase lane p = .mapQ2 lane (phaseIdx p)) ∧
    (phaseSign p = true ∧ phaseMirror p = true ↔ decodePhase lane p = .mapQ3 lane (phaseIdx p)) := by
  rw [decodePhase_quadrant]
  cases phaseSign p <;> cases phaseMirror p <;> simp

/-- Settles O21: the lanes' arms with and without a TICK, and each arm's mask and match by the selectors. -/
theorem mapperArmsOfATick : Obligations.MapperArmsOfATick := by
  refine ⟨fun _ h => ⟨_, _, mapperOps_of_tick h, rfl, rfl⟩, fun _ => mapperOps_of_no_tick,
    fun lane p => ?_⟩
  obtain ⟨h0, h1, h2, h3⟩ := selectors_iff_arm lane p
  exact ⟨(mask_eq_iff 0b00#2 p).trans h0, (mask_eq_iff 0b01#2 p).trans h1,
    (mask_eq_iff 0b10#2 p).trans h2, (mask_eq_iff 0b11#2 p).trans h3, phaseQuadrant_yPhase p⟩

/-! ### Operations that share a cycle (R54) -/

/-- A reset cycle performs RESET alone. -/
theorem operations_of_reset_mem {s : State} (h : .reset ∈ s.operations) : s.operations = [.reset] :=
  operations_reset ((rowReset_hits_decodeWord s).1 ((reset_mem_operations s).1 h))

/-- The state after reset with the flag set, whose cycle has a trigger, a ready channel and a class request with
a given code. -/
def busyState (breq : Byte) : State :=
  { State.reset with
    regs := { State.reset.regs with flagQ := true }
    inp :=
      { rst := false, tick := true, intReady := true, ctlValid := true, ctlBmrt := 0xA1,
        ctlBreq := breq } }

/-- The busy cycle performs TICK and TRY_SEND, whatever the request's code is. -/
theorem busyState_ticks_and_sends (breq : Byte) :
    .tick ∈ (busyState breq).operations ∧ .trySend ∈ (busyState breq).operations :=
  ⟨(tick_mem_operations _).2 ((rowTick_hits_decodeWord _).2 ⟨rfl, rfl⟩),
    (trySend_mem_operations _).2 ((rowTrySend_hits_decodeWord _).2 ⟨rfl, rfl, rfl⟩)⟩

/-- A cycle that performs no operation has no reset, no trigger and no transfer. -/
theorem conditions_of_operations_nil {s : State} (h : s.operations = []) :
    s.inp.rst = false ∧ tickEff s.params s.regs s.inp = false ∧ xfer s.regs s.inp = false := by
  have none (i : Instr) : i ∉ s.operations := by rw [h]; exact List.not_mem_nil
  have hr : s.inp.rst = false := Bool.eq_false_of_not_eq_true fun hr =>
    none .reset ((reset_mem_operations s).2 ((rowReset_hits_decodeWord s).2 hr))
  refine ⟨hr, Bool.eq_false_of_not_eq_true fun ht => ?_, Bool.eq_false_of_not_eq_true fun hx => ?_⟩
  · exact none .tick ((tick_mem_operations s).2 ((rowTick_hits_decodeWord s).2 ⟨hr, ht⟩))
  · obtain ⟨ho, hi⟩ := xfer_iff.1 hx
    rw [offered, hr, Bool.not_false, Bool.and_true] at ho
    exact none .trySend ((trySend_mem_operations s).2 ((rowTrySend_hits_decodeWord s).2 ⟨hr, ho, hi⟩))

/-- A cycle without reset, trigger and transfer changes no register but the synchroniser's. -/
theorem stepRegs_of_idle {p : Params} {r : Regs} {i : Inputs} (hr : i.rst = false)
    (ht : tickEff p r i = false) (hx : xfer r i = false) :
    stepRegs p r i =
      { r with syncQ := (shiftSync p r i).syncQ, edgeQ := (shiftSync p r i).edgeQ } := by
  rw [stepRegs_of_no_tick hr ht, hx]
  ext <;> simp

/-- Settles O20: RESET's row excludes the others', a busy cycle performs the three together with either control
operation, GET_REPORT's row excludes CTL_UNHANDLED's, and an idle cycle is one without reset, trigger and
transfer. -/
theorem operationsThatMayOccurTogether : Obligations.OperationsThatMayOccurTogether := by
  refine ⟨fun s => operations_of_reset_mem, ⟨busyState 0x01, 0xA1, 0x01, ?_⟩,
    ⟨busyState 0x00, 0xA1, 0x00, ?_⟩, fun s b r b' r' ⟨hget, hctl⟩ => ?_, fun s h => ?_⟩
  · obtain ⟨ht, hs⟩ := busyState_ticks_and_sends 0x01
    exact ⟨ht, hs, (getReport_mem_operations _ _ _).2
      ⟨(rowGetReport_hits_decodeWord _).2 ⟨rfl, rfl, by decide, rfl⟩, rfl, rfl⟩⟩
  · obtain ⟨ht, hs⟩ := busyState_ticks_and_sends 0x00
    refine ⟨ht, hs, (ctlUnhandled_mem_operations _ _ _).2
      ⟨(rowCtl_only_hits_decodeWord _).2 ⟨rfl, rfl, fun ⟨_, hcode⟩ => ?_⟩, rfl, rfl⟩⟩
    exact absurd hcode (by decide : (0x00 : Byte) ≠ 0x01)
  · obtain ⟨hhit, -⟩ := (getReport_mem_operations s b r).1 hget
    obtain ⟨⟨-, hmiss⟩, -⟩ := (ctlUnhandled_mem_operations s b' r').1 hctl
    rw [hhit] at hmiss
    cases hmiss
  · obtain ⟨hr, ht, hx⟩ := conditions_of_operations_nil h
    exact ⟨_, step_eq s, stepRegs_of_idle hr ht hx⟩

/-! ### The input word (R58) -/

/-- Each bit of an encoded input word. -/
theorem encodeCiw_bit (i : Inputs) (k : Nat) :
    (encodeCiw i).getLsbD k =
      if k = 0 then i.rst else if k = 1 then i.tick else if k = 2 then i.intReady
      else if k = 3 then i.ctlValid else if k < 12 then i.ctlBmrt.getLsbD (k - 4)
      else i.ctlBreq.getLsbD (k - 12) := by
  have h : (encodeCiw i).getLsbD k =
      BitVec.getLsbD (w := 8 + 8 + 1 + 1 + 1 + 1)
        (i.ctlBreq ++ i.ctlBmrt ++ BitVec.ofBool i.ctlValid ++ BitVec.ofBool i.intReady
          ++ BitVec.ofBool i.tick ++ BitVec.ofBool i.rst) k := rfl
  rw [h]
  simp only [BitVec.getLsbD_append, BitVec.getLsbD_ofBool]
  rcases k with _ | _ | _ | _ | k <;> simp
  have e : k + 1 + 1 + 1 + 1 < 12 ↔ k < 8 := by omega
  simp [e]

/-- Encoding what a word decodes to gives the word. -/
theorem encodeCiw_decodeCiw (w : InputWord) : encodeCiw (decodeCiw w) = w := by
  apply BitVec.eq_of_getLsbD_eq
  intro k hk
  rw [encodeCiw_bit]
  interval_cases k <;> simp [decodeCiw]

/-- The type byte of an encoded input word. -/
theorem encodeCiw_bmrt (i : Inputs) : (encodeCiw i).extractLsb' 4 8 = i.ctlBmrt := by
  apply BitVec.eq_of_getLsbD_eq
  intro k hk
  rw [BitVec.getLsbD_extractLsb', encodeCiw_bit]
  have e : ∀ n < 4, 4 + k ≠ n := by omega
  simp [hk, e, show 4 + k < 12 by omega]

/-- The code byte of an encoded input word. -/
theorem encodeCiw_breq (i : Inputs) : (encodeCiw i).extractLsb' 12 8 = i.ctlBreq := by
  apply BitVec.eq_of_getLsbD_eq
  intro k hk
  rw [BitVec.getLsbD_extractLsb', encodeCiw_bit]
  have e : ∀ n < 12, 12 + k ≠ n := by omega
  simp [hk, e]

/-- Decoding what inputs encode to gives the inputs, port by port. -/
theorem decodeCiw_encodeCiw (i : Inputs) : decodeCiw (encodeCiw i) = i :=
  Inputs.ext (encodeCiw_bit i 0) (encodeCiw_bit i 1) (encodeCiw_bit i 2) (encodeCiw_bit i 3)
    (encodeCiw_bmrt i) (encodeCiw_breq i)

/-- Settles O22. -/
theorem inputWordLayoutAndRoundTrip : Obligations.InputWordLayoutAndRoundTrip :=
  ⟨fun w => ⟨BitVec.getLsbD_eq_getElem (by decide), BitVec.getLsbD_eq_getElem (by decide),
    BitVec.getLsbD_eq_getElem (by decide), BitVec.getLsbD_eq_getElem (by decide), rfl, rfl,
    encodeCiw_decodeCiw w⟩, decodeCiw_encodeCiw⟩

/-! ### The stimulus level (R59) -/

/-- Whether an odd number of the lines trigger. -/
def oddTriggers (lines : List (List StimItem)) : Bool :=
  decide ((lines.countP fun l => decide (StimItem.tk ∈ l)) % 2 = 1)

/-- One more line in front flips the parity exactly when it triggers. -/
theorem oddTriggers_cons (items : List StimItem) (lines : List (List StimItem)) :
    oddTriggers (items :: lines) = (decide (StimItem.tk ∈ items) ^^ oddTriggers lines) := by
  rw [oddTriggers, oddTriggers, List.countP_cons]
  by_cases h : StimItem.tk ∈ items
  · rcases Nat.mod_two_eq_zero_or_one (lines.countP fun l => decide (StimItem.tk ∈ l)) with hc | hc <;>
      simp [h, hc, Nat.add_mod]
  · simp [h]

/-- The level after a line is flipped exactly by a trigger. -/
theorem nextLevel_eq (level : Bool) (items : List StimItem) :
    nextLevel level items = (level ^^ decide (StimItem.tk ∈ items)) := by
  rw [nextLevel]
  split <;> next h => simp [h]

/-- In toggle mode the level on line k is the level at the start, flipped once for each trigger up to it. -/
theorem assembleLines_tick {p : Params} {e : Nat} (h : p.tickSync = .toggle e)
    (lines : List (List StimItem)) (level : Bool) (k : Nat) {i : Inputs}
    (hi : (assembleLines p level lines)[k]? = some i) :
    i.tick = (level ^^ oddTriggers (lines.take (k + 1))) := by
  induction lines generalizing level k with
  | nil => cases hi
  | cons items rest ih =>
    rw [assembleLines] at hi
    rw [List.take_succ_cons, oddTriggers_cons, ← Bool.xor_assoc, ← nextLevel_eq]
    cases k with
    | zero =>
      obtain rfl := Option.some.inj hi
      have hlast : oddTriggers (rest.take 0) = false := rfl
      rw [hlast, Bool.xor_false, lineInputs, lineTick, h]
    | succ k => exact ih _ k hi

/-- Settles O25: the level starts at 0. -/
theorem stimulusLevelTogglesOncePerTrigger : Obligations.StimulusLevelTogglesOncePerTrigger := by
  intro p e lines k i h hi
  rw [assembleLines_tick h lines false k hi, Bool.false_xor, oddTriggers]

end Sys2Proof.Machine
end

section
/-! PROOFS. The whole cycle (44_cycle): the step function R94, the operations' order R96, the placing of words, and
the parameters R23. -/

namespace Sys2Proof.Machine

open Sys2Proof

/-! ### The step function (R94) -/

/-- Settles O7: an operation answers its effect, a step the state after the cycle. -/
theorem everyOperationAndEveryCycleAnswersNext :
    Obligations.EveryOperationAndEveryCycleAnswersNext :=
  ⟨fun i s => ⟨_, exec_effect i s⟩, fun s => ⟨_, step_eq s⟩⟩

section
variable {p : Params} {r : Regs}

/-- The model's trigger is R94's: with no stage `tick_i`, otherwise the last stage against the edge. -/
theorem cycleTickEff_eq (i : Inputs) : cycleTickEff p r i = tickEff p r i := by
  cases h : p.tickSync with
  | pulse => simp [cycleTickEff, tickEff, h, TickSync.stages]
  | toggle e => simp [cycleTickEff, tickEff, lastStage, h, TickSync.stages]

/-- With every stage present the model's shift is R94's, stage by stage. -/
theorem cycleSync_eq (h : SyncShape p r) (i : Inputs) : cycleSync p r i = (shiftSync p r i).syncQ := by
  obtain ⟨hl, -⟩ := h
  cases ht : p.tickSync with
  | pulse =>
    rw [ht, TickSync.stages] at hl
    rw [shiftSync_pulse ht, List.eq_nil_of_length_eq_zero hl, cycleSync, ht]
    rfl
  | toggle e =>
    rw [ht, TickSync.stages] at hl
    rw [shiftSync_toggle ht, cycleSync, ht, TickSync.stages]
    refine List.ext_getElem (by simp [hl]) fun k hk _ => ?_
    rw [List.getElem_map, List.getElem_range, List.getElem_take]
    cases k with
    | zero => rfl
    | succ k =>
      have hlt : k < r.syncQ.length := by
        rw [List.length_map, List.length_range] at hk
        omega
      rw [if_neg (Nat.succ_ne_zero k), List.getElem_cons_succ, Nat.add_sub_cancel,
        List.getD_eq_getElem _ _ hlt]

/-- The model's edge register after a shift is R94's: with no stage it stands. -/
theorem shiftSync_edgeQ_eq (i : Inputs) :
    (shiftSync p r i).edgeQ =
      if 2 ≤ p.tickSync.stages then r.syncQ.getD (p.tickSync.stages - 1) false else r.edgeQ := by
  cases ht : p.tickSync with
  | pulse => rw [shiftSync_pulse ht]; rfl
  | toggle e => rw [shiftSync_toggle ht, lastStage, ht, TickSync.stages, if_pos (Nat.le_add_left 2 e)]

/-- The registers after a cycle are those of R94's pseudocode. -/
theorem stepRegs_eq_cycleRegs (h : SyncShape p r) (i : Inputs) :
    stepRegs p r i = cycleRegs p r i := by
  cases hr : i.rst with
  | true => rw [stepRegs_of_rst hr, cycleRegs, if_pos hr]; rfl
  | false =>
    have hflag := stepRegs_flagQ (p := p) (r := r) hr
    rw [cycleRegs, if_neg (by simp [hr]), cycleTickEff_eq, cycleSync_eq h, ← shiftSync_edgeQ_eq,
      hr, Bool.not_false, Bool.true_and, Bool.true_and]
    ext
    case flagQ => rw [hflag, xfer, offered, hr, Bool.not_false, Bool.and_true]
    all_goals rw [stepRegs, hr]; rfl

end

/-- Settles O8: the state after a cycle, with its registers written as R94 writes them. -/
theorem stepIsTheWholeCycleFunction : Obligations.StepIsTheWholeCycleFunction := by
  intro s h
  refine ⟨_, step_eq s, ?_, rfl, rfl, rfl, rfl, rfl⟩
  rw [stepState_regs, stepRegs_eq_cycleRegs h]

/-! ### The step and the decoded operations (30_encoding R53 to R55) -/

/-- Where the cycle's operations answer a state, the step answers it closed. -/
theorem step_of_runOps {s t : State} (h : runOps s.openCycle.operations s.openCycle = .next t) :
    step s = .next t.closeCycle := by
  rw [step, h]

/-- The cycle of a decode word without TICK performs the word's operations and no arm. -/
theorem operations_of_decode_no_tick {s : State} {ops : List Instr}
    (h : decode s.params.reqGetReport (.dw s.decodeWord) = ops) (ht : .tick ∉ ops) :
    s.operations = ops := by
  rw [decode] at h
  rw [State.operations, mapperOps_of_no_tick (by rwa [mem_operations rfl, h]), decode, h,
    List.nil_append]

/-- The cycle of a decode word with TICK performs the lanes' two arms and the word's operations. -/
theorem operations_of_decode_tick {s : State} {ops : List Instr}
    (h : decode s.params.reqGetReport (.dw s.decodeWord) = ops) (ht : .tick ∈ ops) :
    s.operations =
      [decodePhase .x (sampledPhase s.regs), decodePhase .y (yPhase (sampledPhase s.regs))] ++ ops := by
  rw [decode] at h
  rw [State.operations, mapperOps_of_tick (by rwa [mem_operations rfl, h]), decode, h]

/-- Settles O9: the cycle's operations are the decoded one alone, or the two arms and TICK, run one after the
other. -/
theorem stepRunsTheDecodedOperation : Obligations.StepRunsTheDecodedOperation := by
  refine ⟨fun s i _ h hi => ⟨_, exec_effect i _, step_of_runOps ?_⟩, fun s h => ?_,
    fun s t => step_of_runOps⟩
  · have hops : s.openCycle.operations = [i] :=
      operations_of_decode_no_tick h (by simpa using hi.symm)
    rw [hops, runOps_cons (exec_effect i _), runOps_nil]
  · refine ⟨_, _, _, exec_effect _ _, exec_effect _ _, exec_effect _ _, step_of_runOps ?_⟩
    have hops := operations_of_decode_tick (s := s.openCycle) h (List.mem_singleton_self _)
    rw [hops, List.cons_append, List.cons_append, List.nil_append, runOps_cons (exec_effect _ _),
      runOps_cons (exec_effect _ _), runOps_cons (exec_effect _ _), runOps_nil]
    rfl

/-! ### The operations' order (R96) -/

/-- Two states of one cycle: the same registers, inputs and parameters, which no operation writes. -/
def SameCycle (s u : State) : Prop :=
  u.regs = s.regs ∧ u.inp = s.inp ∧ u.params = s.params

theorem SameCycle.rfl {s : State} : SameCycle s s := ⟨Eq.refl _, Eq.refl _, Eq.refl _⟩

/-- An operation stays in its cycle. -/
theorem SameCycle.effect {s u : State} (h : SameCycle s u) (i : Instr) :
    SameCycle s (effect i u) := by
  obtain ⟨hregs, hinp, hparams⟩ := h
  exact ⟨(effect_regs i u).trans hregs, (effect_inp i u).trans hinp,
    (effect_params i u).trans hparams⟩

/-- Two operations commute in every state of a cycle. -/
def CommuteIn (s : State) (i j : Instr) : Prop :=
  ∀ u, SameCycle s u → effect j (effect i u) = effect i (effect j u)

theorem CommuteIn.symm {s : State} {i j : Instr} (h : CommuteIn s i j) : CommuteIn s j i :=
  fun u hu => (h u hu).symm

/-- Operations that commute pairwise may be performed in any order. -/
theorem foldl_effect_of_perm {s : State} {a b : List Instr} (h : a.Perm b)
    (hc : a.Pairwise (CommuteIn s)) {u : State} (hu : SameCycle s u) :
    a.foldl (fun v i => effect i v) u = b.foldl (fun v i => effect i v) u := by
  induction h generalizing u with
  | nil => rfl
  | cons i _ ih => exact ih hc.of_cons (hu.effect i)
  | swap i j l =>
    have hij : CommuteIn s j i := List.rel_of_pairwise_cons hc List.mem_cons_self
    rw [List.foldl_cons, List.foldl_cons, hij u hu]
    rfl
  | trans hab _ ih₁ ih₂ =>
    exact (ih₁ hc hu).trans (ih₂ (hab.pairwise hc fun h => h.symm) hu)

section
variable (u : State) (bmrt breq : Byte)

/-- TRY_SEND's effect as one write of the ports and the flag. -/
theorem effect_trySend_eq :
    effect .trySend u =
      { u with
        out := if xfer u.regs u.inp then driveInt u.regs u.inp u.out else u.out
        nxt :=
          { u.nxt with
            flagQ :=
              if xfer u.regs u.inp then claimFlag (tickOp u.params u.regs u.inp) u.nxt.flagQ
              else u.nxt.flagQ } } := by
  rw [effect]
  split <;> rfl

/-- In a TICK's cycle TRY_SEND leaves the flag to the TICK and writes the ports alone (R85: the set wins). -/
theorem effect_trySend_of_tick {u : State} (h : tickOp u.params u.regs u.inp = true) :
    effect .trySend u =
      { u with out := if xfer u.regs u.inp then driveInt u.regs u.inp u.out else u.out } := by
  rw [effect_trySend_eq, h, claimFlag, if_pos rfl, ite_self]

/-- GET_REPORT's effect as one write of the ports. -/
theorem effect_getReport_eq :
    effect (.getReport bmrt breq) u =
      { u with
        out :=
          if isGetReport u.params bmrt breq && !u.inp.rst then driveCtl 3 (memRead u.regs) u.out
          else u.out } := by
  rw [effect]
  split <;> rfl

/-- CTL_UNHANDLED's effect as one write of the ports. -/
theorem effect_ctlUnhandled_eq :
    effect (.ctlUnhandled bmrt breq) u =
      { u with
        out :=
          if !isGetReport u.params bmrt breq && !u.inp.rst then driveCtl 0 0x000000 u.out
          else u.out } := by
  rw [effect]
  split <;> rfl

end

/-- A decode word's operations neither read nor write a lane. -/
theorem effect_driveLane {i : Instr} (hi : isMapperArm i = false) (u : State) (lane : Lane) (b : Byte) :
    effect i (u.driveLane lane b) = (effect i u).driveLane lane b := by
  cases i with
  | mapQ0 | mapQ1 | mapQ2 | mapQ3 => cases hi
  | reset | tick => cases lane <;> rfl
  | trySend => rw [effect_trySend_eq, effect_trySend_eq]; cases lane <;> rfl
  | getReport => rw [effect_getReport_eq, effect_getReport_eq]; cases lane <;> rfl
  | ctlUnhandled => rw [effect_ctlUnhandled_eq, effect_ctlUnhandled_eq]; cases lane <;> rfl

/-- A lane's arm drives the lane with MAP of its phase. -/
theorem effect_decodePhase (lane : Lane) (ph : Byte) (u : State) :
    effect (decodePhase lane ph) u = u.driveLane lane (mapPhase u.params ph) :=
  (eq_effect_of_exec (exec_decodePhase lane ph u)).symm

section
variable {s : State}

/-- The two lanes' arms write one lane each. -/
theorem commute_arms (a b : Byte) : CommuteIn s (decodePhase .x a) (decodePhase .y b) := by
  intro u _
  simp only [effect_decodePhase, driveLane_params]
  rfl

/-- An arm commutes with every operation of the decode word. -/
theorem commute_arm {i : Instr} (hi : isMapperArm i = false) (lane : Lane) (ph : Byte) :
    CommuteIn s (decodePhase lane ph) i := by
  intro u _
  rw [effect_decodePhase, effect_decodePhase, effect_driveLane hi, effect_params]

/-- TICK and TRY_SEND meet at the flag alone, which the claim leaves to the TICK. -/
theorem commute_tick_trySend (h : tickOp s.params s.regs s.inp = true) :
    CommuteIn s .tick .trySend := by
  rintro u ⟨hregs, hinp, hparams⟩
  have hu : tickOp u.params u.regs u.inp = true := by rw [hparams, hregs, hinp, h]
  rw [effect_trySend_of_tick hu, effect_trySend_of_tick (u := effect .tick u) hu]
  rfl

/-- The control operations, of which a cycle performs at most one. -/
def isControl : Instr → Bool
  | .getReport .. | .ctlUnhandled .. => true
  | .reset | .tick | .trySend | .mapQ0 .. | .mapQ1 .. | .mapQ2 .. | .mapQ3 .. => false

/-- A control operation commutes with TICK, which drives no port. -/
theorem commute_tick_control {c : Instr} (hc : isControl c = true) : CommuteIn s .tick c := by
  intro u _
  cases c with
  | getReport => rw [effect_getReport_eq, effect_getReport_eq]; rfl
  | ctlUnhandled => rw [effect_ctlUnhandled_eq, effect_ctlUnhandled_eq]; rfl
  | reset | tick | trySend | mapQ0 | mapQ1 | mapQ2 | mapQ3 => cases hc

/-- A control operation commutes with TRY_SEND, which drives the other channel's ports. -/
theorem commute_trySend_control {c : Instr} (hc : isControl c = true) : CommuteIn s .trySend c := by
  intro u _
  cases c with
  | getReport bmrt breq =>
    simp only [effect_trySend_eq, effect_getReport_eq]
    split_ifs <;> rfl
  | ctlUnhandled bmrt breq =>
    simp only [effect_trySend_eq, effect_ctlUnhandled_eq]
    split_ifs <;> rfl
  | reset | tick | trySend | mapQ0 | mapQ1 | mapQ2 | mapQ3 => cases hc

end

/-- The control operation of a cycle with a request. -/
def requestOp (s : State) : Instr :=
  if isGetReport s.params s.inp.ctlBmrt s.inp.ctlBreq then .getReport s.inp.ctlBmrt s.inp.ctlBreq
  else .ctlUnhandled s.inp.ctlBmrt s.inp.ctlBreq

theorem isControl_requestOp (s : State) : isControl (requestOp s) = true := by
  rw [requestOp]
  split <;> rfl

theorem isMapperArm_of_isControl {c : Instr} (hc : isControl c = true) : isMapperArm c = false := by
  cases c with
  | getReport | ctlUnhandled => rfl
  | reset | tick | trySend | mapQ0 | mapQ1 | mapQ2 | mapQ3 => cases hc

/-- The operations of a cycle outside reset are the lanes' arms and TICK, or none of them, and after these at most
TRY_SEND and the control operation. -/
theorem operations_sublist {s : State} (hr : s.inp.rst = false) :
    s.operations.Sublist
      ((if tickEff s.params s.regs s.inp then
          [decodePhase .x (sampledPhase s.regs), decodePhase .y (yPhase (sampledPhase s.regs)), .tick]
        else []) ++ [.trySend, requestOp s]) := by
  rw [operations_eq, hr, if_neg Bool.false_ne_true, List.append_assoc]
  refine (List.Sublist.refl _).append (List.Sublist.append (l₂ := [Instr.trySend]) ?_ ?_)
  · split
    · exact List.Sublist.refl _
    · exact List.nil_sublist _
  · rw [requestOp]
    split
    · split <;> exact List.Sublist.refl _
    · exact List.nil_sublist _

/-- The operations of a cycle commute pairwise. -/
theorem operations_pairwise_commute (s : State) : s.operations.Pairwise (CommuteIn s) := by
  have hc := isControl_requestOp s
  have harm := isMapperArm_of_isControl hc
  cases hr : s.inp.rst with
  | true => rw [operations_reset hr]; exact List.pairwise_singleton ..
  | false =>
    refine List.Pairwise.sublist (operations_sublist hr) ?_
    cases ht : tickEff s.params s.regs s.inp with
    | true =>
      have htick : tickOp s.params s.regs s.inp = true := by rw [tickOp, hr, ht]; rfl
      simp [commute_arms, commute_arm (i := .tick) rfl, commute_arm (i := .trySend) rfl,
        commute_arm harm, commute_tick_trySend htick,
        commute_tick_control hc, commute_trySend_control hc]
    | false => simp [commute_trySend_control hc]

/-- Settles O10: performing operations applies their effects in turn, and those of a cycle commute pairwise. -/
theorem operationsOfACycleCommute : Obligations.OperationsOfACycleCommute := by
  intro s ops h
  have hpairs : ops.Pairwise (CommuteIn s) :=
    h.symm.pairwise (operations_pairwise_commute s) fun hij => hij.symm
  rw [runOps_effect, runOps_effect, foldl_effect_of_perm h hpairs SameCycle.rfl]

/-! ### Placing a word (log entry 8) -/

/-- The edge register placed for a trigger makes the coming cycle's trigger be it, where `tick_i` is it too. -/
theorem tickEff_edgeFor {p : Params} {r r' : Regs} {i : Inputs} {t : Bool} (hi : i.tick = t)
    (hsync : r'.syncQ = r.syncQ) (hedge : r'.edgeQ = edgeFor p r t) : tickEff p r' i = t := by
  cases h : p.tickSync with
  | pulse => rw [tickEff, h]; exact hi
  | toggle e =>
    rw [tickEff_toggle h, hsync, hedge, edgeFor, h, lastStage_toggle h]
    cases r.syncQ.getD (e + 1) false <;> simp

/-- A placed decode word is the opened cycle's, field by field. -/
theorem decodeWord_presentDw (s : State) (w : DecodeWord) :
    (s.presentDw w).openCycle.decodeWord = w := by
  have ht : tickEff (s.presentDw w).params (s.presentDw w).regs (s.presentDw w).sampled =
      dwTickEff w := tickEff_edgeFor rfl (presentDw_syncQ s w) rfl
  rw [State.decodeWord, openCycle_inp, openCycle_params, openCycle_regs, ht, presentDw_flagQ,
    presentDw_sampled, assembleDw_fields]

/-- A placed phase's cycle performs the two arms and TICK alone. -/
theorem operations_presentPhase (s : State) (lane : Lane) (ph : Byte) :
    (s.presentPhase lane ph).openCycle.operations =
      [decodePhase .x (sampledPhase (s.presentPhase lane ph).regs),
        decodePhase .y (yPhase (sampledPhase (s.presentPhase lane ph).regs)), .tick] := by
  have ht : tickEff (s.presentPhase lane ph).params (s.presentPhase lane ph).regs
      (s.presentPhase lane ph).sampled = true :=
    tickEff_edgeFor rfl (presentPhase_syncQ s ph lane) rfl
  rw [operations_eq, openCycle_inp, openCycle_params, openCycle_regs, ht, presentPhase_sampled]
  simp [Inputs.trigger]

/-- The TICK of a phase placed in a lane samples it there. -/
theorem sampledPhase_presentPhase (s : State) (lane : Lane) (ph : Byte) :
    sampledPhase (s.presentPhase lane ph).regs =
      match lane with
      | .x => ph
      | .y => ph - 64 := by
  cases lane with
  | x => exact BitVec.sub_add_cancel ph 1
  | y => exact BitVec.sub_add_cancel (ph - 64) 1

/-- Settles O11: a placed decode word is read back from its fields, and a placed phase is the sampled one of its
lane. -/
theorem placedWordIsDecodedInTheNextCycle : Obligations.PlacedWordIsDecodedInTheNextCycle := by
  refine ⟨decodeWord_presentDw, fun s ph => ?_, fun s ph => ?_⟩
  · rw [operations_presentPhase, sampledPhase_presentPhase]
    rfl
  · rw [operations_presentPhase, sampledPhase_presentPhase, yPhase, BitVec.sub_add_cancel]

/-! ### The parameters (10_state R23, R24) -/

/-- Settles O12: no effect and no run changes the parameters. -/
theorem tableAndParametersAreReadOnly : Obligations.TableAndParametersAreReadOnly := by
  refine ⟨fun i s t h => ?_, fun k s t h => ?_⟩
  · rw [eq_effect_of_exec h, effect_params]
  · rw [runFor_eq] at h
    rw [← Host.Outcome.next.inj h, after_params]

end Sys2Proof.Machine
end

section
/-! PROOFS. The mapper's mirrored arms and its consequences (40_mapper): MAP_Q1 R66, MAP_Q3 R68, the range R69, the
symmetries R70 and the table-independent values R71. -/

namespace Sys2Proof.Machine

open Sys2Proof

/-! ### The mirrored arms (R66, R68) -/

/-- A phase with bits 7:6 = 11 selects MAP_Q3, and MAP is the arm's result (R55, R68). -/
theorem q3_of_mask (p : Params) {ph : Byte} (h : ph &&& 0xC0 = 0xC0) :
    (∀ lane, decodePhase lane ph = .mapQ3 lane (phaseIdx ph)) ∧
      mapPhase p ph = armQ3 p (phaseIdx ph) := by
  obtain ⟨hS, hM⟩ : phaseSign ph = true ∧ phaseMirror ph = true :=
    selectors_of_mask (q := 0b11#2) h
  simp [decodePhase_quadrant, mapPhase_quadrant, hS, hM]

/-- MAP_Q1 drives its lane and nothing else (R66). -/
theorem exec_mapQ1 (lane : Lane) (idx : Idx) (s : State) :
    exec (.mapQ1 lane idx) s =
      .next (s.driveLane lane (s.params.qwt[(63 - idx).toNat] >>> 4)) :=
  exec_effect ..

/-- MAP_Q3 drives its lane, with the negated result, and nothing else (R68). -/
theorem exec_mapQ3 (lane : Lane) (idx : Idx) (s : State) :
    exec (.mapQ3 lane idx) s =
      .next (s.driveLane lane (-(s.params.qwt[(63 - idx).toNat] >>> 4))) := by
  rw [← neg8_eq]
  exact exec_effect ..

section
variable {p : Params} (hp : p.wf)
include hp

/-- The peak's first sample: the table's entry 63 (R65). -/
theorem mapPhase_0x3F : mapPhase p 0x3F = 0x07 := by
  obtain ⟨-, -, ends, -⟩ := mapQ0RisingPositive
  exact (ends p hp).2

/-- The last phase before the second zero crossing: IDX 63 mirrors to the table's entry 0 (R66). -/
theorem mapPhase_0x7F : mapPhase p 0x7F = 0x00 :=
  calc
    mapPhase p 0x7F = scale (qwtRead p 0) := (q1_of_mask p (by decide)).2
    _ = 0x00 := by rw [qwtRead_first hp]; rfl

/-- The trough's first sample: the table's entry 63 negated (R67). -/
theorem mapPhase_0xBF : mapPhase p 0xBF = 0xF9 := by
  obtain ⟨-, -, -, ends⟩ := mapQ2FallingNegative
  exact (ends p hp).2

/-- The trough's second sample: IDX 0 mirrors to the table's entry 63, negated (R68). -/
theorem mapPhase_0xC0 : mapPhase p 0xC0 = 0xF9 :=
  calc
    mapPhase p 0xC0 = neg8 (scale (qwtRead p 63)) := (q3_of_mask p (by decide)).2
    _ = 0xF9 := by rw [qwtRead_last hp]; rfl

/-- The last phase: IDX 63 mirrors to the table's entry 0, negated to no negative zero (R68). -/
theorem mapPhase_0xFF : mapPhase p 0xFF = 0x00 :=
  calc
    mapPhase p 0xFF = neg8 (scale (qwtRead p 0)) := (q3_of_mask p (by decide)).2
    _ = 0x00 := by rw [qwtRead_first hp]; rfl

end

/-- Settles O29: the arm's effect on either lane, then MAP by the arm its quadrant selects. -/
theorem mapQ1FallingPositive : Obligations.MapQ1FallingPositive := by
  refine ⟨fun s lane idx => ?_, fun p lane ph h => ?_, fun p hp => ?_⟩
  · rw [exec_mapQ1]
    cases lane <;> rfl
  · obtain ⟨hdec, hmap⟩ := q1_of_mask p h
    exact ⟨hdec lane, hmap⟩
  · exact ⟨mapPhase_0x40 hp, mapPhase_0x7F hp, (mapPhase_0x3F hp).trans (mapPhase_0x40 hp).symm⟩

/-- Settles O31: as for MAP_Q1, with the shifted magnitude negated. -/
theorem mapQ3RisingNegative : Obligations.MapQ3RisingNegative := by
  refine ⟨fun s lane idx => ?_, fun p lane ph h => ?_, fun p hp => ?_⟩
  · rw [exec_mapQ3]
    cases lane <;> rfl
  · obtain ⟨hdec, hmap⟩ := q3_of_mask p h
    exact ⟨hdec lane, hmap⟩
  · exact ⟨mapPhase_0xC0 hp, mapPhase_0xFF hp, (mapPhase_0xBF hp).trans (mapPhase_0xC0 hp).symm⟩

/-! ### The range (R69) -/

/-- MAP denotes a magnitude of at most 7, with either sign. -/
theorem signedValue_mapPhase_bounds {p : Params} (hp : p.wf) (ph : Byte) :
    -7 ≤ signedValue (mapPhase p ph) ∧ signedValue (mapPhase p ph) ≤ 7 := by
  have hle := scale_qwtRead_le_seven hp (foldedIdx ph)
  rw [mapPhase, signedValue_applySign _ (by omega)]
  split <;> omega

/-- Settles O32: the bound of the shifted magnitude, and the values at the peak and the trough. -/
theorem mapStaysWithinSeven : Obligations.MapStaysWithinSeven := by
  intro p hp
  refine ⟨signedValue_mapPhase_bounds hp, ?_⟩
  rw [mapPhase_0x3F hp, mapPhase_0x40 hp, mapPhase_0xBF hp, mapPhase_0xC0 hp]
  decide

/-! ### The symmetries (R70) -/

/-- Flipping S and nothing else. -/
theorem fields_xor_0x80 (ph : Byte) :
    phaseSign (ph ^^^ 0x80) = !phaseSign ph ∧ foldedIdx (ph ^^^ 0x80) = foldedIdx ph := by
  revert ph
  decide

/-- Flipping M and IDX folds to the same index. -/
theorem fields_xor_0x7F (ph : Byte) :
    phaseSign (ph ^^^ 0x7F) = phaseSign ph ∧ foldedIdx (ph ^^^ 0x7F) = foldedIdx ph := by
  revert ph
  decide

/-- Below 128, subtracting from 127 flips bits 6:0. -/
theorem sub_eq_xor_0x7F (ph : Byte) (h : ph < 128) : 127 - ph = ph ^^^ 0x7F := by
  revert ph
  decide

/-- The other sign is the negation (R10). -/
theorem applySign_not (sign : Bool) (v : Byte) : applySign (!sign) v = neg8 (applySign sign v) := by
  cases sign with
  | false => rfl
  | true =>
    show v = neg8 (neg8 v)
    rw [neg8_eq, neg8_eq, neg_neg]

theorem mapPhase_xor_0x80 (p : Params) (ph : Byte) :
    mapPhase p (ph ^^^ 0x80) = neg8 (mapPhase p ph) := by
  obtain ⟨hS, hidx⟩ := fields_xor_0x80 ph
  rw [mapPhase, hS, hidx, applySign_not, ← mapPhase]

theorem mapPhase_xor_0x7F (p : Params) (ph : Byte) : mapPhase p (ph ^^^ 0x7F) = mapPhase p ph := by
  obtain ⟨hS, hidx⟩ := fields_xor_0x7F ph
  rw [mapPhase, hS, hidx, ← mapPhase]

/-- MAP reads the table through the shift alone. -/
theorem mapPhase_congr {p q : Params} (h : ∀ j, scale (qwtRead p j) = scale (qwtRead q j))
    (ph : Byte) : mapPhase p ph = mapPhase q ph := by
  rw [mapPhase, h, ← mapPhase]

/-- Settles O33. -/
theorem mapSymmetries : Obligations.MapSymmetries := by
  refine ⟨mapPhase_xor_0x80, mapPhase_xor_0x7F, fun p ph h => ?_, fun p q => mapPhase_congr⟩
  rw [sub_eq_xor_0x7F ph h, mapPhase_xor_0x7F]

/-! ### The table-independent values (R71) -/

/-- The phases whose folded index is an end of the table. -/
theorem foldedIdx_end_iff (ph : Byte) :
    (foldedIdx ph = 0 ∨ foldedIdx ph = 63) ↔
      ph ∈ [0x00#8, 0x3F#8, 0x40#8, 0x7F#8, 0x80#8, 0xBF#8, 0xC0#8, 0xFF#8] := by
  revert ph
  decide

/-- An index that is no end of the table is 1 to 62. -/
theorem idx_bounds {j : Idx} (h : ¬ (j = 0 ∨ j = 63)) : 1 ≤ j.toNat ∧ j.toNat ≤ 62 := by
  revert j
  decide

/-- MAP is the shifted entry at the folded index, or its negation. -/
theorem mapPhase_eq_or_neg (p : Params) (ph : Byte) :
    mapPhase p ph = scale (qwtRead p (foldedIdx ph)) ∨
      mapPhase p ph = neg8 (scale (qwtRead p (foldedIdx ph))) := by
  rw [mapPhase]
  cases phaseSign ph
  · exact .inl rfl
  · exact .inr rfl

/-- The shifted magnitude rises with the index, as the table does (R24 (c)). -/
theorem scale_qwtRead_mono {p : Params} (hp : p.wf) {i j : Idx} (h : i ≤ j) :
    scale (qwtRead p i) ≤ scale (qwtRead p j) := by
  have hle : (qwtRead p i).toNat ≤ (qwtRead p j).toNat := qwt_le_qwt hp h j.isLt
  rw [BitVec.le_def, scale_toNat, scale_toNat]
  exact Nat.div_le_div_right hle

/-- In the positive half MAP is monotone in the folded index. -/
theorem mapPhase_mono {p : Params} (hp : p.wf) {a b : Byte} (ha : phaseSign a = false)
    (hb : phaseSign b = false) (h : foldedIdx a ≤ foldedIdx b) : mapPhase p a ≤ mapPhase p b := by
  rw [mapPhase, mapPhase, ha, hb]
  exact scale_qwtRead_mono hp h

/-- The selectors of the first two quadrants, by the phase's value (R45). -/
theorem selectors_eq_of_lt (ph : Byte) :
    (ph.toNat < 0x40 → phaseSign ph = false ∧ phaseMirror ph = false) ∧
      (0x40 ≤ ph.toNat → ph.toNat < 0x80 → phaseSign ph = false ∧ phaseMirror ph = true) := by
  revert ph
  decide

/-- MAP does not fall over quadrant 0, where the folded index is the phase. -/
theorem mapPhase_mono_q0 {p : Params} (hp : p.wf) {a b : Byte} (hab : a.toNat ≤ b.toNat)
    (hb : b.toNat < 0x40) : mapPhase p a ≤ mapPhase p b := by
  obtain ⟨hSa, hMa⟩ := (selectors_eq_of_lt a).1 (by omega)
  obtain ⟨hSb, hMb⟩ := (selectors_eq_of_lt b).1 hb
  refine mapPhase_mono hp hSa hSb ?_
  rw [BitVec.le_def, foldedIdx_toNat, foldedIdx_toNat, hMa, hMb]
  simp only [Bool.false_eq_true, if_false]
  omega

/-- MAP does not rise over quadrant 1, where the folded index is 63 less the phase's offset. -/
theorem mapPhase_anti_q1 {p : Params} (hp : p.wf) {a b : Byte} (hab : a.toNat ≤ b.toNat)
    (ha : 0x40 ≤ a.toNat) (hb : b.toNat < 0x80) : mapPhase p b ≤ mapPhase p a := by
  obtain ⟨hSa, hMa⟩ := (selectors_eq_of_lt a).2 ha (by omega)
  obtain ⟨hSb, hMb⟩ := (selectors_eq_of_lt b).2 (by omega) hb
  refine mapPhase_mono hp hSb hSa ?_
  rw [BitVec.le_def, foldedIdx_toNat, foldedIdx_toNat, hMa, hMb]
  simp only [if_true]
  omega

/-- Settles O34: the eight phases by their folded index, their values, the other phases' entries, and the two
quadrants by the folded index. -/
theorem tableIndependentPhases : Obligations.TableIndependentPhases := by
  refine ⟨foldedIdx_end_iff, fun p hp => ?_, fun p ph h => ?_, fun p hp a b hab => ⟨fun hb => ?_,
    fun ha hb => ?_⟩⟩
  · exact ⟨mapPhase_0x00 hp, mapPhase_0x3F hp, mapPhase_0x40 hp, mapPhase_0x7F hp, mapPhase_0x80 hp,
      mapPhase_0xBF hp, mapPhase_0xC0 hp, mapPhase_0xFF hp⟩
  · obtain ⟨hlo, hhi⟩ := idx_bounds (mt (foldedIdx_end_iff ph).1 h)
    exact ⟨foldedIdx ph, hlo, hhi, mapPhase_eq_or_neg p ph⟩
  · exact mapPhase_mono_q0 hp hab hb
  · exact mapPhase_anti_q1 hp hab ha hb

end Sys2Proof.Machine
end

section
/-! PROOFS. The Generator's runs (41_generator): TICK R76, pulse mode R72, the toggle-mode timing R74, the period
R80, and the spurious trigger after reset (70_reset_and_hazards R115). -/

namespace Sys2Proof.Machine

open Sys2Proof

/-! ### TICK (R76) -/

/-- Byte 0 of the buffer is hardwired (10_state R20). -/
theorem rbByte_zero (r : Regs) : rbByte r 0 = 0x00 := rfl

/-- Settles O35: TICK's effect field by field; the one byte it does not write is the hardwired one. -/
theorem tickAdvancesPhaseAndWritesSample : Obligations.TickAdvancesPhaseAndWritesSample := by
  refine fun s => ⟨?_, fun t _ => ⟨fun a h1 h2 => ?_, rbByte_zero _⟩⟩
  · rw [exec_effect, effect, tickWrites_eq]
    rfl
  · obtain rfl : a = 0 := by omega
    rw [rbByte_zero, rbByte_zero]

/-! ### Pulse mode (R72) -/

/-- Outside reset the phase advances by 1 exactly under the trigger. -/
theorem stepRegs_phaseQ {p : Params} {r : Regs} {i : Inputs} (hr : i.rst = false) :
    (stepRegs p r i).phaseQ = r.phaseQ + (if tickEff p r i then 1 else 0) := by
  cases ht : tickEff p r i with
  | true => rw [stepRegs_of_tick hr ht, tickWrites_phaseQ, sampledPhase]; rfl
  | false => rw [stepRegs_of_no_tick hr ht]; simp

/-- In pulse mode the trigger is `tick_i`. -/
theorem tickEff_pulse {p : Params} (h : p.tickSync = .pulse) (r : Regs) (i : Inputs) :
    tickEff p r i = i.tick := by
  rw [tickEff, h]

/-- Settles O37: with no synchroniser the trigger is `tick_i` and nothing shifts. -/
theorem pulseModeTriggers : Obligations.PulseModeTriggers := by
  intro s h
  refine ⟨tickEff_pulse h s.regs, fun ⟨hl, he⟩ => ⟨?_, he h⟩, _, step_eq s, fun hr => ?_⟩
  · rw [h] at hl
    exact List.eq_nil_of_length_eq_zero hl
  · rw [stepState_regs, stepRegs_phaseQ hr, stepRegs_syncQ hr, stepRegs_edgeQ hr, tickEff_pulse h,
      shiftSync_pulse h]
    exact ⟨rfl, rfl, rfl⟩

/-! ### Runs from the reset registers -/

/-- The answer of k steps is the state after them. -/
theorem eq_after_of_runFor {k : Nat} {s t : State} (h : runFor k s = .next t) : t = after k s := by
  rw [runFor_eq] at h
  exact (Host.Outcome.next.inj h).symm

/-- A run without reset: none of its cycles is one, and neither is any of a shorter run. -/
theorem noReset_succ_iff (k : Nat) (s : State) :
    NoReset (history (k + 1) s) ↔ NoReset (history k s) ∧ (after k s).sampled.rst = false := by
  rw [history_snoc, NoReset, List.forall_mem_append, List.forall_mem_singleton]
  rfl

/-- A run of k + 1 cycles has the TICK of its last cycle beside those of its first k. -/
theorem tickCount_succ (p : Params) (k : Nat) (s : State) :
    tickCount p (history (k + 1) s) =
      tickCount p (history k s) + if tickOp p (after k s).regs (after k s).sampled then 1 else 0 := by
  rw [history_snoc, tickCount, List.countP_append, List.countP_singleton]
  rfl

/-! ### Toggle-mode timing (R74) -/

/-- The level sampled d cycles before cycle k, d at least 1, is on the run's inputs, and 0 before the run. -/
theorem sampledLevel_eq {d : Nat} (hd : 1 ≤ d) (k : Nat) (s : State) :
    sampledLevel (history k s) k d = if d ≤ k then (after (k - d) s).sampled.tick else false := by
  rw [sampledLevel]
  split
  · rw [history_get (by omega)]
    rfl
  · rfl

/-- One cycle later each level lies one cycle further back. -/
theorem sampledLevel_succ {d : Nat} (hd : 1 ≤ d) (k : Nat) (s : State) :
    sampledLevel (history (k + 1) s) (k + 1) (d + 1) = sampledLevel (history k s) k d := by
  rw [sampledLevel_eq (by omega), sampledLevel_eq hd, Nat.add_sub_add_right]
  simp only [Nat.add_le_add_iff_right]

/-- The level one cycle back is the one the last cycle sampled. -/
theorem sampledLevel_one (k : Nat) (s : State) :
    sampledLevel (history (k + 1) s) (k + 1) 1 = (after k s).sampled.tick := by
  rw [sampledLevel_eq (Nat.le_refl 1), if_pos (by omega), Nat.add_sub_cancel]

/-- The synchroniser holds the levels of the cycles before: stage j that of j + 1 cycles before, the edge register
that of one cycle before the last stage's (R73). -/
def SyncHoldsLevels (e k : Nat) (s : State) : Prop :=
  (∀ j < e + 2, (after k s).regs.syncQ[j]? = some (sampledLevel (history k s) k (j + 1))) ∧
    (after k s).regs.edgeQ = sampledLevel (history k s) k (e + 3)

/-- The last stage of a synchroniser that holds the levels. -/
theorem SyncHoldsLevels.lastStage {e k : Nat} {s : State} (h : SyncHoldsLevels e k s) :
    (after k s).regs.syncQ.getD (e + 1) false = sampledLevel (history k s) k (e + 2) := by
  rw [List.getD_eq_getElem?_getD, h.1 (e + 1) (by omega), Option.getD_some]

/-- From the reset registers the synchroniser holds the levels as long as there is no reset. -/
theorem syncHoldsLevels_after {e : Nat} {s : State} (h : s.params.tickSync = .toggle e)
    (hs : s.regs = Regs.atReset s.params) (k : Nat) (hn : NoReset (history k s)) :
    SyncHoldsLevels e k s := by
  induction k with
  | zero =>
    have hzero (d : Nat) (hd : 1 ≤ d) : sampledLevel (history 0 s) 0 d = false := by
      rw [sampledLevel_eq hd, if_neg (by omega)]
    refine ⟨fun j hj => ?_, ?_⟩
    · rw [hzero _ (by omega), after, hs, Regs.atReset, resetSync, h]
      exact List.getElem?_replicate_of_lt hj
    · rw [hzero _ (by omega), after, hs]
      rfl
  | succ k ih =>
    obtain ⟨hn, hr⟩ := (noReset_succ_iff k s).1 hn
    have hk := ih hn
    have hp : (after k s).params.tickSync = .toggle e := by rw [after_params, h]
    refine ⟨fun j hj => ?_, ?_⟩
    · rw [after_succ, stepState_regs, stepRegs_syncQ hr]
      cases j with
      | zero => rw [shiftSync_stage_zero hp, sampledLevel_one]
      | succ j =>
        rw [shiftSync_stage_succ hp _ (by omega), hk.1 j (by omega), sampledLevel_succ (by omega)]
    · rw [after_succ, stepState_regs, stepRegs_edgeQ hr, shiftSync_edgeQ hp, lastStage_toggle hp,
        hk.lastStage, sampledLevel_succ (by omega)]

/-- The closed form of the trigger (R74). -/
theorem tickEff_after {e : Nat} {s : State} (h : s.params.tickSync = .toggle e)
    (hs : s.regs = Regs.atReset s.params) {k : Nat} (hn : NoReset (history k s)) (i : Inputs) :
    tickEff s.params (after k s).regs i =
      (sampledLevel (history k s) k (e + 2) ^^ sampledLevel (history k s) k (e + 3)) := by
  have hk := syncHoldsLevels_after h hs k hn
  rw [tickEff_toggle h, hk.lastStage, hk.2]

/-- Settles O39: the trigger compares the last stage with the edge register, which hold these two levels. -/
theorem toggleTriggerIsDelayedLevelChange : Obligations.ToggleTriggerIsDelayedLevelChange := by
  intro k e s t h hs hrun hn
  rw [eq_after_of_runFor hrun]
  exact tickEff_after h hs hn

/-! ### The period (R80) -/

/-- The registers after n TICKs since reset: phase n mod 256 and, from the first TICK on, the sample of it. -/
def AfterTicks (p : Params) (n : Nat) (r : Regs) : Prop :=
  r.phaseQ = BitVec.ofNat 8 n ∧ (1 ≤ n → HoldsSample p r)

/-- A cycle outside reset counts its TICK. -/
theorem stepRegs_afterTicks {p : Params} {r : Regs} {i : Inputs} {n : Nat} (hr : i.rst = false)
    (h : AfterTicks p n r) :
    AfterTicks p (n + if tickOp p r i then 1 else 0) (stepRegs p r i) := by
  obtain ⟨hphase, hsample⟩ := h
  have htick : tickOp p r i = tickEff p r i := by rw [tickOp, hr]; rfl
  rw [htick]
  cases ht : tickEff p r i with
  | true =>
    rw [stepRegs_of_tick hr ht]
    refine ⟨?_, fun _ => tickWrites_holdsSample _⟩
    rw [tickWrites_phaseQ, sampledPhase, hphase, if_pos rfl, BitVec.ofNat_add]
    rfl
  | false =>
    refine ⟨?_, fun hn => stepRegs_holdsSample hr ht (hsample hn)⟩
    rw [stepRegs_phaseQ hr, ht, hphase]
    exact BitVec.add_zero _

/-- From the reset registers, as long as there is no reset, the registers count the run's TICKs. -/
theorem afterTicks_after {s : State} (hs : s.regs = Regs.atReset s.params) (k : Nat)
    (hn : NoReset (history k s)) :
    AfterTicks s.params (tickCount s.params (history k s)) (after k s).regs := by
  induction k with
  | zero =>
    rw [after, hs]
    exact ⟨rfl, fun h => absurd h (Nat.not_succ_le_zero 0)⟩
  | succ k ih =>
    obtain ⟨hn, hr⟩ := (noReset_succ_iff k s).1 hn
    rw [tickCount_succ, after_succ, stepState_regs, after_params]
    exact stepRegs_afterTicks hr (ih hn)

/-- Settles O41: the registers count the run's TICKs, and the count is taken modulo 256. -/
theorem kthTickAfterReset : Obligations.KthTickAfterReset := by
  refine ⟨fun k s t hs hrun hn => ?_, fun p n => ?_⟩
  · rw [eq_after_of_runFor hrun]
    obtain ⟨hphase, hsample⟩ := afterTicks_after hs k hn
    refine ⟨hphase, fun h => ?_⟩
    obtain ⟨hx, hy⟩ := hsample h
    rw [hx, hy, hphase, yPhase, BitVec.ofNat_add]
    exact ⟨rfl, rfl⟩
  · have hmod : BitVec.ofNat 8 (n + 256) = BitVec.ofNat 8 n := by
      rw [BitVec.toNat_eq, BitVec.toNat_ofNat, BitVec.toNat_ofNat]
      exact Nat.add_mod_right n 256
    rw [hmod]

/-! ### The spurious trigger (R115) -/

/-- A level held at 1 was 1 in every cycle of the run and 0 before it. -/
theorem sampledLevel_held {k d : Nat} {s : State} (hd : 1 ≤ d)
    (h : ∀ c ∈ history k s, c.inp.tick = true) :
    sampledLevel (history k s) k d = decide (d ≤ k) := by
  rw [sampledLevel_eq hd]
  split
  · next hle =>
    have hmem := List.mem_of_getElem? (history_get (k := k) (n := k - d) (by omega) s)
    rw [decide_eq_true hle]
    exact h _ hmem
  · next hle => rw [decide_eq_false hle]

/-- A level held at 1 triggers exactly in cycle N. -/
theorem tickEff_held {e : Nat} {s : State} (h : s.params.tickSync = .toggle e)
    (hs : s.regs = Regs.atReset s.params) {k : Nat} (hn : NoReset (history k s))
    (hheld : ∀ c ∈ history k s, c.inp.tick = true) (i : Inputs) :
    tickEff s.params (after k s).regs i = decide (k = e + 2) := by
  rw [tickEff_after h hs hn, sampledLevel_held (by omega) hheld, sampledLevel_held (by omega) hheld]
  rcases Nat.lt_trichotomy k (e + 2) with hk | hk | hk
  · have h3 : ¬ e + 3 ≤ k := by omega
    simp [h3, hk.ne, Nat.not_le.2 hk]
  · simp [hk]
  · simp [hk.ne', hk.le, Nat.succ_le_of_lt hk]

/-- A level held at 1 performs no TICK in its first N cycles and one after cycle N. -/
theorem tickCount_held {e : Nat} {s : State} (h : s.params.tickSync = .toggle e)
    (hs : s.regs = Regs.atReset s.params) {k : Nat} (hn : NoReset (history k s))
    (hheld : ∀ c ∈ history k s, c.inp.tick = true) :
    tickCount s.params (history k s) = if e + 2 < k then 1 else 0 := by
  induction k with
  | zero => rfl
  | succ k ih =>
    obtain ⟨hn, hr⟩ := (noReset_succ_iff k s).1 hn
    rw [history_snoc, List.forall_mem_append] at hheld
    obtain ⟨hheld, -⟩ := hheld
    rw [tickCount_succ, ih hn hheld, tickOp, tickEff_held h hs hn hheld, hr, Bool.not_false,
      Bool.true_and]
    simp only [decide_eq_true_eq]
    split_ifs <;> omega

/-- Settles O40: the TICK of cycle N is the run's only one; it is the first since reset and sets the flag. -/
theorem levelHeldThroughResetTicksOnce : Obligations.LevelHeldThroughResetTicksOnce := by
  intro e s t h hs hrun hn hheld
  have hcount : tickCount s.params (history (e + 3) s) = 1 := by
    rw [tickCount_held h hs hn hheld, if_pos (by omega)]
  obtain ⟨hphase, -⟩ := afterTicks_after hs (e + 3) hn
  rw [hcount] at hphase
  rw [eq_after_of_runFor hrun]
  refine ⟨hcount, hphase, ?_⟩
  obtain ⟨hn, hr⟩ := (noReset_succ_iff (e + 2) s).1 hn
  rw [history_snoc, List.forall_mem_append] at hheld
  obtain ⟨hheld, -⟩ := hheld
  have ht : tickEff s.params (after (e + 2) s).regs (after (e + 2) s).sampled = true := by
    rw [tickEff_held h hs hn hheld, decide_eq_true rfl]
  rw [after_succ, stepState_regs, after_params, stepRegs_of_tick hr ht, tickWrites_flagQ]

end Sys2Proof.Machine
end

section
/-! PROOFS. The Dispatcher's runs (42_dispatcher): TRY_SEND R84, backpressure R86, delivery R87, and a TICK and a
transfer in one cycle (70_reset_and_hazards R113). -/

namespace Sys2Proof.Machine

open Sys2Proof

/-! ### TRY_SEND (R84) -/

/-- A transfer by its three conditions (R83). -/
theorem xfer_iff_conditions (r : Regs) (i : Inputs) :
    xfer r i = true ↔ i.rst = false ∧ r.flagQ = true ∧ i.intReady = true := by
  simp only [xfer, offered, Bool.and_eq_true, Bool.not_eq_true']
  tauto

/-- Settles O42: TRY_SEND's effect in a transfer and outside one. -/
theorem trySendClaimsAndPresents : Obligations.TrySendClaimsAndPresents := by
  refine fun s => ⟨fun hr hf hi => ?_, fun hn => ?_⟩
  · have hx : xfer s.regs s.inp = true := (xfer_iff_conditions _ _).2 ⟨hr, hf, hi⟩
    have hv : offered s.regs s.inp = true := (xfer_iff.1 hx).1
    have ht : tickOp s.params s.regs s.inp = tickEff s.params s.regs s.inp := by
      rw [tickOp, hr]; rfl
    rw [exec_effect, effect, if_pos hx, driveInt, hv, ht]
    rfl
  · rw [exec_effect, effect, if_neg (mt (xfer_iff_conditions _ _).1 hn)]

/-! ### Backpressure (R86) -/

section
variable {p : Params} {r : Regs} {i : Inputs}

/-- Outside reset a flagged sample is offered (R81). -/
theorem offered_of_flagQ (hr : i.rst = false) (hf : r.flagQ = true) : offered r i = true := by
  rw [offered, hf, hr]
  rfl

/-- On a busy channel a cycle outside reset keeps the flag. -/
theorem stepRegs_flagQ_of_busy (hr : i.rst = false) (hb : i.intReady = false)
    (hf : r.flagQ = true) : (stepRegs p r i).flagQ = true := by
  rw [stepRegs_flagQ hr, xfer, hb, hf, Bool.and_false, Bool.not_false, Bool.and_true, Bool.or_true]

/-- A cycle without a TICK and without reset leaves the bytes and the phase. -/
theorem stepRegs_stands (hr : i.rst = false) (ht : tickOp p r i = false) :
    (stepRegs p r i).rbXQ = r.rbXQ ∧ (stepRegs p r i).rbYQ = r.rbYQ ∧
      (stepRegs p r i).phaseQ = r.phaseQ := by
  rw [tickOp, hr, Bool.not_false, Bool.true_and] at ht
  rw [stepRegs_of_no_tick hr ht]
  exact ⟨shiftSync_rbXQ .., shiftSync_rbYQ .., shiftSync_phaseQ ..⟩

/-- A cycle without a TICK and without reset leaves what `MemRead(0, 3)` reads. -/
theorem memRead_stepRegs (hr : i.rst = false) (ht : tickOp p r i = false) :
    memRead (stepRegs p r i) = memRead r := by
  obtain ⟨hx, hy, -⟩ := stepRegs_stands hr ht
  rw [memRead_eq, hx, hy, ← memRead_eq]

end

/-- What backpressure keeps over k cycles: the flag, the offer in each of them, and without a TICK the bytes and the
phase. -/
def KeepsOffer (k : Nat) (s : State) : Prop :=
  (after k s).regs.flagQ = true ∧ (∀ c ∈ history k s, c.out.intValid = true) ∧
    (tickCount s.params (history k s) = 0 →
      (after k s).regs.rbXQ = s.regs.rbXQ ∧ (after k s).regs.rbYQ = s.regs.rbYQ ∧
        (after k s).regs.phaseQ = s.regs.phaseQ)

/-- One more busy cycle outside reset keeps it. -/
theorem KeepsOffer.succ {k : Nat} {s : State} (h : KeepsOffer k s)
    (hr : (after k s).sampled.rst = false) (hb : (after k s).sampled.intReady = false) :
    KeepsOffer (k + 1) s := by
  obtain ⟨hflag, hoffer, hstands⟩ := h
  refine ⟨?_, ?_, fun hcount => ?_⟩
  · rw [after_succ]
    exact stepRegs_flagQ_of_busy hr hb hflag
  · rw [history_snoc, List.forall_mem_append, List.forall_mem_singleton]
    exact ⟨hoffer, offered_of_flagQ hr hflag⟩
  · rw [tickCount_succ, Nat.add_eq_zero_iff] at hcount
    obtain ⟨hcount, htick⟩ := hcount
    have ht : tickOp (after k s).params (after k s).regs (after k s).sampled = false := by
      rw [after_params]; simpa using htick
    obtain ⟨hx, hy, hphase⟩ := hstands hcount
    obtain ⟨hx', hy', hphase'⟩ := stepRegs_stands hr ht
    rw [after_succ]
    exact ⟨hx'.trans hx, hy'.trans hy, hphase'.trans hphase⟩

/-- Settles O45, by the number of cycles. -/
theorem backpressureHoldsTheOffer : Obligations.BackpressureHoldsTheOffer := by
  intro k s t hf hrun hn hb
  rw [eq_after_of_runFor hrun]
  show KeepsOffer k s
  clear hrun
  induction k with
  | zero => exact ⟨hf, List.forall_mem_nil _, fun _ => ⟨rfl, rfl, rfl⟩⟩
  | succ k ih =>
    obtain ⟨hn, hr⟩ := (noReset_succ_iff k s).1 hn
    rw [history_snoc, List.forall_mem_append, List.forall_mem_singleton] at hb
    obtain ⟨hb, hlast⟩ := hb
    exact (ih hn hb).succ hr hlast

/-! ### The events of a run -/

section
variable (s : State) (n : Nat)

/-- Cycle n from a state performs a TICK. -/
def tickIn : Bool := tickOp s.params (after n s).regs (after n s).sampled

/-- Cycle n from a state is a transfer. -/
def transferIn : Bool := xfer (after n s).regs (after n s).sampled

/-- Cycle n from a state is a reset cycle. -/
def resetIn : Bool := (after n s).sampled.rst

variable {s n} {k : Nat}

/-- A cycle of a history with a property is one of its k cycles, recorded. -/
theorem exists_cycle_iff {P : Cycle → Prop} :
    (∃ c, (history k s)[n]? = some c ∧ P c) ↔ n < k ∧ P (cycleAt (after n s)) := by
  constructor
  · rintro ⟨c, hc, hP⟩
    obtain ⟨hn, rfl⟩ := history_get_some hc
    exact ⟨hn, hP⟩
  · rintro ⟨hn, hP⟩
    exact ⟨_, history_get hn s, hP⟩

theorem tickAt_iff : TickAt s.params (history k s) n ↔ n < k ∧ tickIn s n = true :=
  exists_cycle_iff

theorem transferAt_iff : TransferAt (history k s) n ↔ n < k ∧ transferIn s n = true :=
  exists_cycle_iff

theorem resetAt_iff : ResetAt (history k s) n ↔ n < k ∧ resetIn s n = true :=
  exists_cycle_iff

end

/-! ### The origin of a flagged sample (R87) -/

/-- The sample in the buffer at cycle n is the one that the TICK of cycle j left, and nothing has happened to it
since: no TICK, no transfer, no reset. -/
structure PendingFrom (s : State) (n j : Nat) : Prop where
  before : j < n
  tick : tickIn s j = true
  quiet : ∀ l, j < l → l < n → tickIn s l = false ∧ transferIn s l = false ∧ resetIn s l = false
  bytes : memRead (after n s).regs = memRead (after (j + 1) s).regs

/-- A TICK's sample is pending after its cycle. -/
theorem PendingFrom.of_tick {s : State} {n : Nat} (h : tickIn s n = true) :
    PendingFrom s (n + 1) n :=
  ⟨Nat.lt_succ_self n, h, fun _ _ _ => by omega, rfl⟩

/-- A pending sample stays pending over a cycle without TICK, transfer and reset. -/
theorem PendingFrom.succ {s : State} {n j : Nat} (h : PendingFrom s n j) (ht : tickIn s n = false)
    (hx : transferIn s n = false) (hr : resetIn s n = false) : PendingFrom s (n + 1) j := by
  refine ⟨Nat.lt_succ_of_lt h.before, h.tick, fun l hjl hln => ?_, ?_⟩
  · rcases Nat.lt_succ_iff_lt_or_eq.1 hln with hln | rfl
    · exact h.quiet l hjl hln
    · exact ⟨ht, hx, hr⟩
  · rw [← h.bytes, after_succ]
    exact memRead_stepRegs hr (by rw [after_params]; exact ht)

/-- In a run from the reset registers a flagged sample is pending from some TICK. -/
theorem exists_pendingFrom {s : State} (hs : s.regs = Regs.atReset s.params) (n : Nat)
    (hf : (after n s).regs.flagQ = true) : ∃ j, PendingFrom s n j := by
  induction n with
  | zero => rw [after, hs] at hf; cases hf
  | succ n ih =>
    rw [after_succ, stepState_regs] at hf
    cases hr : resetIn s n with
    | true => rw [stepRegs_of_rst hr] at hf; cases hf
    | false =>
      cases ht : tickIn s n with
      | true => exact ⟨n, .of_tick ht⟩
      | false =>
        have heff : tickEff (after n s).params (after n s).regs (after n s).sampled = false := by
          rw [tickIn, tickOp, show (after n s).sampled.rst = false from hr] at ht
          rw [after_params]; exact ht
        rw [stepRegs_flagQ hr, heff, Bool.false_or, Bool.and_eq_true, Bool.not_eq_true'] at hf
        obtain ⟨hflag, hx⟩ := hf
        obtain ⟨j, hj⟩ := ih hflag
        exact ⟨j, hj.succ ht hx hr⟩

/-- In a run from the reset registers a transfer takes a sample pending from some TICK. -/
theorem exists_pendingFrom_of_transfer {s : State} (hs : s.regs = Regs.atReset s.params) {n : Nat}
    (h : transferIn s n = true) : ∃ j, PendingFrom s n j := by
  obtain ⟨-, hf, -⟩ := (xfer_iff_conditions _ _).1 h
  exact exists_pendingFrom hs n hf

/-! ### Delivery (R87) -/

section
variable {s : State} {k n j : Nat}

/-- A transfer of a pending sample transfers the sample of the TICK it is pending from. -/
theorem PendingFrom.transfersSampleOf (h : PendingFrom s n j) (hn : TransferAt (history k s) n) :
    TransfersSampleOf s.params (history k s) n j := by
  obtain ⟨hnk, -⟩ := transferAt_iff.1 hn
  have hjk : j < k := Nat.lt_trans h.before hnk
  refine ⟨hn, tickAt_iff.2 ⟨hjk, h.tick⟩, h.before, fun l hjl hln htick => ?_,
    _, _, history_get hnk s, history_get hjk s, ?_⟩
  · obtain ⟨hquiet, -⟩ := h.quiet l hjl hln
    obtain ⟨-, htick⟩ := tickAt_iff.1 htick
    rw [hquiet] at htick
    cases htick
  · exact h.bytes.trans (by rw [after_succ]; rfl)

/-- Between two transfers lies a TICK: the later one's sample is not pending over the earlier one. -/
theorem exists_tick_between_transfers (hs : s.regs = Regs.atReset s.params) {m : Nat} (hmn : m < n)
    (hm : TransferAt (history k s) m) (hn : TransferAt (history k s) n) :
    ∃ j, m ≤ j ∧ j < n ∧ TickAt s.params (history k s) j := by
  obtain ⟨-, hxm⟩ := transferAt_iff.1 hm
  obtain ⟨hnk, hxn⟩ := transferAt_iff.1 hn
  obtain ⟨j, hj⟩ := exists_pendingFrom_of_transfer hs hxn
  refine ⟨j, Nat.le_of_not_lt fun hjm => ?_, hj.before,
    tickAt_iff.2 ⟨Nat.lt_trans hj.before hnk, hj.tick⟩⟩
  obtain ⟨-, hquiet, -⟩ := hj.quiet m hjm hmn
  rw [hquiet] at hxm
  cases hxm

/-- A transfer takes the newest sample, and no reset lies between. -/
theorem exists_transfersSampleOf (hs : s.regs = Regs.atReset s.params)
    (hn : TransferAt (history k s) n) :
    ∃ j, TransfersSampleOf s.params (history k s) n j ∧
      ∀ r, j < r → r < n → ¬ ResetAt (history k s) r := by
  obtain ⟨-, hx⟩ := transferAt_iff.1 hn
  obtain ⟨j, hj⟩ := exists_pendingFrom_of_transfer hs hx
  refine ⟨j, hj.transfersSampleOf hn, fun r hjr hrn hreset => ?_⟩
  obtain ⟨-, -, hquiet⟩ := hj.quiet r hjr hrn
  obtain ⟨-, hreset⟩ := resetAt_iff.1 hreset
  rw [hquiet] at hreset
  cases hreset

/-- No two transfers take the same TICK's sample: a TICK would lie between them. -/
theorem not_transfersSampleOf_of_lt (hs : s.regs = Regs.atReset s.params) {m : Nat} (hmn : m < n)
    (hm : TransfersSampleOf s.params (history k s) m j) :
    ¬ TransfersSampleOf s.params (history k s) n j := by
  rintro ⟨hxn, -, -, hlast, -⟩
  obtain ⟨hxm, -, hjm, -, -⟩ := hm
  obtain ⟨l, hml, hln, htick⟩ := exists_tick_between_transfers hs hmn hxm hxn
  exact hlast l (Nat.lt_of_lt_of_le hjm hml) hln htick

/-- A transfer after a TICK, at or before the next one's cycle, takes its sample: the sample's TICK can be no
earlier and no later one. -/
theorem transfersSampleOf_of_last_tick (hs : s.regs = Regs.atReset s.params)
    (htick : TickAt s.params (history k s) j) (hjn : j < n) (hn : TransferAt (history k s) n)
    (hlast : ∀ l, j < l → l < n → ¬ TickAt s.params (history k s) l) :
    TransfersSampleOf s.params (history k s) n j := by
  obtain ⟨i, hi, -⟩ := exists_transfersSampleOf hs hn
  obtain ⟨-, hticki, hin, hlasti, -⟩ := id hi
  rcases Nat.lt_trichotomy i j with hij | rfl | hji
  · exact absurd htick (hlasti j hij hjn)
  · exact hi
  · exact absurd hticki (hlast i hji hin)

end

/-- Settles O46: a transfer takes the sample pending from a TICK, with no TICK, transfer or reset between. -/
theorem deliveryAtMostOncePerSample : Obligations.DeliveryAtMostOncePerSample := by
  intro k s hs h p
  refine ⟨fun c _ hc => ?_, fun m n => exists_tick_between_transfers hs,
    fun n => exists_transfersSampleOf hs, fun n hd hn => ?_, fun j m n hm hn => ?_,
    fun j htick => ⟨fun ⟨n, hjn, hn, hlast⟩ => ?_, fun ⟨n, hn⟩ => ?_⟩⟩
  · rw [Cycle.transferred, Bool.and_eq_true] at hc
    exact hc.2
  · obtain ⟨j, ⟨-, htick, hjn, -, -⟩, hno⟩ := exists_transfersSampleOf hs hn
    obtain ⟨r, hjr, hrn, hreset⟩ := hd j hjn htick
    exact hno r hjr hrn hreset
  · rcases Nat.lt_trichotomy m n with hmn | hmn | hnm
    · exact absurd hn (not_transfersSampleOf_of_lt hs hmn hm)
    · exact hmn
    · exact absurd hm (not_transfersSampleOf_of_lt hs hnm hn)
  · exact ⟨n, transfersSampleOf_of_last_tick hs htick hjn hn hlast⟩
  · obtain ⟨hx, -, hjn, hlast, -⟩ := hn
    exact ⟨n, hjn, hx, hlast⟩

/-! ### A TICK and a transfer in one cycle (R113) -/

/-- What `MemRead(0, 3)` reads after a TICK cycle: the TICK's sample. -/
theorem memRead_stepRegs_of_tick {p : Params} {r : Regs} {i : Inputs} (hr : i.rst = false)
    (ht : tickEff p r i = true) :
    memRead (stepRegs p r i) =
      mapPhase p (yPhase (sampledPhase r)) ++ mapPhase p (sampledPhase r) ++ 0x00#8 := by
  rw [stepRegs_of_tick hr ht, memRead_eq, tickWrites_rbXQ, tickWrites_rbYQ]

/-- Settles O47: the cycle offers the older buffer and leaves the TICK's flag and sample, which the next cycle
outside reset offers. -/
theorem sameCycleTickAndTransfer : Obligations.SameCycleTickAndTransfer := by
  intro s hr hf _ ht
  have hflag : (stepState s).regs.flagQ = true := by
    rw [stepState_regs, stepRegs_of_tick hr ht, tickWrites_flagQ]
  refine ⟨_, step_eq s, offered_of_flagQ hr hf, memRead_eq s.regs, hflag, fun hr' => ?_⟩
  exact ⟨_, step_eq _, offered_of_flagQ hr' hflag, memRead_stepRegs_of_tick hr ht⟩

end Sys2Proof.Machine
end

section
/-! PROOFS. The Control responder's operations and runs (43_control_query): GET_REPORT R90, CTL_UNHANDLED R91, the
reentrancy R93, a TICK and a query in one cycle (70_reset_and_hazards R114), and the queries between two TICKs
(20_memory R35). -/

namespace Sys2Proof.Machine

open Sys2Proof

/-! ### The operations (R90, R91) -/

/-- The request bytes of a get-report request (R51, R89). -/
theorem isGetReport_iff (p : Params) (bmrt breq : Byte) :
    isGetReport p bmrt breq = true ↔ bmrt.extractLsb' 5 2 = 0b01#2 ∧ breq = p.reqGetReport := by
  rw [← requestIsGetReport_eq, requestIsGetReport, Bool.and_eq_true, beq_iff_eq, beq_iff_eq]

section
variable {s : State} {bmrt breq : Byte}

/-- GET_REPORT's condition (R89). -/
theorem getReport_condition_iff :
    (isGetReport s.params bmrt breq && !s.inp.rst) = true ↔
      bmrt.extractLsb' 5 2 = 0b01#2 ∧ breq = s.params.reqGetReport ∧ s.inp.rst = false := by
  rw [Bool.and_eq_true, isGetReport_iff, Bool.not_eq_true', and_assoc]

/-- CTL_UNHANDLED's condition (R89). -/
theorem ctlUnhandled_condition_iff :
    (!isGetReport s.params bmrt breq && !s.inp.rst) = true ↔
      ¬ (bmrt.extractLsb' 5 2 = 0b01#2 ∧ breq = s.params.reqGetReport) ∧ s.inp.rst = false := by
  rw [Bool.and_eq_true, Bool.not_eq_true', Bool.not_eq_true', ← Bool.not_eq_true, isGetReport_iff]

end

/-- Settles O48: GET_REPORT's effect under its condition and outside it. -/
theorem getReportAnswersWithTheBuffer : Obligations.GetReportAnswersWithTheBuffer := by
  refine fun s bmrt breq => ⟨fun hcls hcode hr => ?_, fun hn => ?_⟩
  · rw [exec_effect, effect, if_pos (getReport_condition_iff.2 ⟨hcls, hcode, hr⟩)]
    rfl
  · rw [exec_effect, effect, if_neg (mt getReport_condition_iff.1 hn)]

/-- Settles O49: CTL_UNHANDLED's effect under its condition and outside it. -/
theorem unhandledRequestAnswersLengthZero : Obligations.UnhandledRequestAnswersLengthZero := by
  refine fun s bmrt breq => ⟨fun hother hr => ?_, fun h => ?_⟩
  · rw [exec_effect, effect, if_pos (ctlUnhandled_condition_iff.2 ⟨hother, hr⟩)]
    rfl
  · have hn : ¬ (!isGetReport s.params bmrt breq && !s.inp.rst) = true := fun hc => by
      obtain ⟨hother, hr⟩ := ctlUnhandled_condition_iff.1 hc
      rcases h with hget | hrst
      · exact hother hget
      · rw [hr] at hrst; cases hrst
    rw [exec_effect, effect, if_neg hn]

/-! ### Reentrancy (R93) -/

/-- The inputs with another query, or none. -/
def withQuery (i : Inputs) (valid : Bool) (bmrt breq : Byte) : Inputs :=
  { i with ctlValid := valid, ctlBmrt := bmrt, ctlBreq := breq }

section
variable (p : Params) (r : Regs) (i : Inputs) (valid : Bool) (bmrt breq : Byte)

/-- The trigger reads no query. -/
theorem tickEff_withQuery : tickEff p r (withQuery i valid bmrt breq) = tickEff p r i := by
  cases h : p.tickSync with
  | pulse => rw [tickEff_pulse h, tickEff_pulse h]; rfl
  | toggle e => rw [tickEff_toggle h, tickEff_toggle h]

/-- The synchroniser reads no query. -/
theorem shiftSync_withQuery :
    shiftSync p r (withQuery i valid bmrt breq) = shiftSync p r i := by
  cases h : p.tickSync with
  | pulse => rw [shiftSync_pulse h, shiftSync_pulse h]
  | toggle e => rw [shiftSync_toggle h, shiftSync_toggle h]; rfl

/-- No register reads a query. -/
theorem stepRegs_withQuery :
    stepRegs p r (withQuery i valid bmrt breq) = stepRegs p r i := by
  rw [stepRegs, stepRegs, tickEff_withQuery, shiftSync_withQuery]
  rfl

end

/-- Settles O52: the registers after a cycle and the interrupt channel's ports read no query. -/
theorem queryNeverChangesTheState : Obligations.QueryNeverChangesTheState := by
  intro s i rest valid bmrt breq
  exact ⟨_, _, step_eq _, step_eq _, (stepRegs_withQuery s.params s.regs i valid bmrt breq).symm,
    rfl, rfl, rfl⟩

/-! ### A TICK and a query in one cycle (R114) -/

/-- A step that handles a query answers with the buffer from the start of its cycle. -/
theorem stepState_answer {s : State} (h : handled s.params s.sampled = true) :
    (stepState s).out.ctlRespLen = 3 ∧ (stepState s).out.ctlRespData = memRead s.regs := by
  rw [stepState_out, cycleOutputs_of_handled h]
  exact ⟨rfl, rfl⟩

/-- A query is handled outside reset (R89). -/
theorem rst_of_handled {p : Params} {i : Inputs} (h : handled p i = true) : i.rst = false := by
  rw [handled, Bool.and_eq_true, Bool.not_eq_true'] at h
  exact h.2

/-- Settles O53: each of the two queries is answered with the buffer from the start of its cycle, and the second
cycle starts with the TICK's sample. -/
theorem sameCycleTickAndQuery : Obligations.SameCycleTickAndQuery := by
  intro s h ht
  obtain ⟨hlen, hdata⟩ := stepState_answer h
  refine ⟨_, step_eq s, hlen, hdata, fun h' => ?_⟩
  obtain ⟨hlen', hdata'⟩ := stepState_answer h'
  exact ⟨_, step_eq _, hlen', hdata'.trans (memRead_stepRegs_of_tick (rst_of_handled h) ht)⟩

/-! ### The queries between two TICKs (R35) -/

/-- The buffer reads the same over cycles without TICK and reset. -/
theorem memRead_after_of_quiet {s : State} {m n : Nat} (hmn : m ≤ n)
    (h : ∀ j, m ≤ j → j < n → tickIn s j = false ∧ resetIn s j = false) :
    memRead (after n s).regs = memRead (after m s).regs := by
  induction n, hmn using Nat.le_induction with
  | base => rfl
  | succ n hmn ih =>
    obtain ⟨ht, hr⟩ := h n hmn (Nat.lt_succ_self n)
    rw [← ih fun j hmj hjn => h j hmj (Nat.lt_succ_of_lt hjn), after_succ]
    exact memRead_stepRegs hr (by rw [after_params]; exact ht)

/-- Settles O54: an answer of length 3 carries the buffer, which stands from the one query to the other. -/
theorem queriesBetweenTicksAgree : Obligations.QueriesBetweenTicksAgree := by
  intro k s m n c d hmn hc hd hlc hld hquiet
  obtain ⟨-, rfl⟩ := history_get_some hc
  obtain ⟨hnk, rfl⟩ := history_get_some hd
  have hcdata : (cycleAt (after m s)).out.ctlRespData = memRead (after m s).regs :=
    ctlRespData_of_ctlRespLen hlc
  have hddata : (cycleAt (after n s)).out.ctlRespData = memRead (after n s).regs :=
    ctlRespData_of_ctlRespLen hld
  rw [hcdata, hddata]
  refine (memRead_after_of_quiet hmn fun j hmj hjn => ?_).symm
  obtain ⟨hnotick, hnoreset⟩ := hquiet j hmj hjn
  have hjk : j < k := Nat.lt_trans hjn hnk
  exact ⟨Bool.eq_false_of_not_eq_true fun h => hnotick (tickAt_iff.2 ⟨hjk, h⟩),
    Bool.eq_false_of_not_eq_true fun h => hnoreset (resetAt_iff.2 ⟨hjk, h⟩)⟩

end Sys2Proof.Machine
end
